-- ==== Sys2Proof/Word.lean ====
section
/-! DEFINITION. The words of the block. Every width is fixed by spec/00_scope.md R5; every value is an
unsigned bit vector whose bit 0 is the least significant (R7, R8). -/

namespace Sys2Proof

/-- A plain operand or result, `XW` = 32 bits (R5). -/
abbrev Value := BitVec 32

/-- A Morton code, `CW` = 64 bits (R5). -/
abbrev Code := BitVec 64

/-- The operand payload `opnd` of a command (R70). -/
abbrev Opnd := BitVec 64

/-- A command word `cmd = {op, opnd}` (R70). -/
abbrev Cmd := BitVec 65

/-- A response word `rsp = res` (R73). -/
abbrev Rsp := BitVec 64

/-- A byte lane, and the index of either table (R5, R40). -/
abbrev Byte := BitVec 8

/-- An entry of the interleave table (R5, R40). -/
abbrev Spread := BitVec 16

/-- An entry of the deinterleave table (R5, R40; "a 4-bit unit", R12). -/
abbrev Nibble := BitVec 4

end Sys2Proof
end

