-- ==== Sys2Proof/Syntax.lean ====
section
/-! DEFINITION. The instructions of the block, one constructor per row of spec/opcode_table.json
(spec/30_encoding.md R76), and the host's script line (R80, R81). -/

namespace Sys2Proof

/-- The `op` field of a command (R71): the block has exactly these two operations. -/
inductive Op where
  | interleave
  | deinterleave
deriving DecidableEq, Repr

/-- A command, decoded (R82). -/
inductive Instr where
  /-- `INTERLEAVE valueA, valueB -> code` (40_interleave.md R90). -/
  | interleave (valueA valueB : Value)
  /-- `DEINTERLEAVE code -> (valueA, valueB)` (41_deinterleave.md R110). -/
  | deinterleave (code : Code)
deriving DecidableEq, Repr

/-- The six spellings a script may use for an operation: the two mnemonics and the source's four function
names (00_scope.md R14, 30_encoding.md R81). -/
inductive OpName where
  | mnemonicInterleave
  | mnemonicDeinterleave
  | shortInterleave
  | shortDeinterleave
  | longInterleave
  | longDeinterleave
deriving DecidableEq, Repr

/-- The operation part of one line of a host script (R80), the names of host variables already replaced by
their values: an operation and its operand literals, unsigned numbers of any size, in the order written. -/
structure ScriptLine where
  name : OpName
  operands : List Nat
deriving DecidableEq, Repr

end Sys2Proof
end

