-- ==== Sys2Proof/WellFormed.lean ====
section
/-! DEFINITION. Well-formedness. Every instruction of the block is well formed: each operand has its full
width in its type and every bit pattern is legal (spec/30_encoding.md R75, R77). What can be ill formed is a
line of a script (R80). -/

namespace Sys2Proof

/-- Every operand pattern of both operations is legal (R77). -/
def Instr.wellFormed : Instr → Bool
  | .interleave _ _ => true
  | .deinterleave _ => true

/-- A literal fits an operand of `width` bits (R80). -/
def literalFits (width n : Nat) : Bool := n < 2 ^ width

/-- The operand widths an operation takes, in the order written: 32 and 32 for `INTERLEAVE`, 64 for
`DEINTERLEAVE` (R72, R80). -/
def Op.operandWidths : Op → List Nat
  | .interleave => [32, 32]
  | .deinterleave => [64]

/-- The literals given to an operation are as many as it takes and each fits its operand (R80). -/
def Op.acceptsLiterals (o : Op) (ns : List Nat) : Bool :=
  ns.length == o.operandWidths.length && (o.operandWidths.zip ns).all fun p => literalFits p.1 p.2

end Sys2Proof
end

