-- ==== Sys2Proof/Decode.lean ====
section
/-! DEFINITION. The decoder and the encoder (spec/30_encoding.md R70 to R76, R82). A command is one 65-bit
vector; the block has no byte serialisation of it and the model adds none (20_memory.md R53). -/

namespace Sys2Proof

/-! Fields of the words -/

/-- The concatenation `{b, a}`, `b` in the high half (00_scope.md R9): the layout of the `opnd` of an
`INTERLEAVE` (R72) and of the `res` of a `DEINTERLEAVE` (R74). -/
def packPair (a b : Value) : BitVec 64 := b ++ a

/-- Bits `[31:0]` of a 64-bit word: `valueA` (R72, R74). -/
def lowHalf (w : BitVec 64) : Value := w.extractLsb' 0 32

/-- Bits `[63:32]` of a 64-bit word: `valueB` (R72, R74). -/
def highHalf (w : BitVec 64) : Value := w.extractLsb' 32 32

/-- The value of the `op` bit of an operation (R71). -/
def Op.toBit : Op → Bool
  | .interleave => false
  | .deinterleave => true

/-- The operation an `op` bit selects; both values select one (R71). -/
def Op.ofBit : Bool → Op
  | false => .interleave
  | true => .deinterleave

/-- `cmd = {op, opnd}` (R70). -/
def packCmd (o : Op) (opnd : Opnd) : Cmd := BitVec.ofBool o.toBit ++ opnd

/-- The operation of a command word: bit 64 and nothing else (R70, R76). -/
def Cmd.op (w : Cmd) : Op := Op.ofBit (w.getLsbD 64)

/-- The operand payload of a command word: bits `[63:0]` (R70). -/
def Cmd.opnd (w : Cmd) : Opnd := w.extractLsb' 0 64

/-- The operation of an instruction. -/
def Instr.op : Instr → Op
  | .interleave _ _ => .interleave
  | .deinterleave _ => .deinterleave

/-! Decode and encode -/

/-- The operands of an operation, cut whole from the payload (R72, R75). -/
def Op.instr : Op → Opnd → Instr
  | .interleave, p => .interleave (lowHalf p) (highHalf p)
  | .deinterleave, p => .deinterleave p

/-- `Decode` (R82): total, every command word is legal (R77). -/
def decode (w : Cmd) : Instr := (Cmd.op w).instr (Cmd.opnd w)

/-- The operand payload of an instruction (R72). -/
def Instr.opnd : Instr → Opnd
  | .interleave a b => packPair a b
  | .deinterleave c => c

/-- `Encode` (R82). -/
def encode (i : Instr) : Cmd := packCmd i.op i.opnd

/-! Numerals -/

/-- Why a numeral is no command word. -/
inductive DecodeError where
  /-- The numeral needs more than the 65 bits of the one command format (R70, R78). Raised by
  `decodeNumeral` alone, on a numeral the host writes; no command word of the block raises it. Safe. -/
  | widerThanCommand
deriving DecidableEq, Repr

/-- The instruction a numeral stands for: a numeral of at most 65 bits is a command word, and every command
word decodes (R77); a wider one is rejected by name. -/
def decodeNumeral (w : Nat) : Except DecodeError Instr :=
  if w < 2 ^ 65 then .ok (decode (BitVec.ofNat 65 w)) else .error .widerThanCommand

/-- The instruction whose bits are the low `nbits` of `w`, numbered as the opcode table numbers them: bit 0 is
the least significant bit of the command word. Assumption entry 11. -/
def decodeTableWord (nbits w : Nat) : Option Instr := (decodeNumeral (w % 2 ^ nbits)).toOption

end Sys2Proof
end

