-- ==== Sys2Proof/Machine/Operands.lean ====
section
/-! DEFINITION. Byte lanes, masks and table taps: how a datapath forms the indices it presents to a table
(spec/20_memory.md R52, R55; 00_scope.md R10). -/

namespace Sys2Proof.Machine

/-- Byte lane `k` of a value, bits `[8k+7:8k]`, lane 0 the least significant (20_memory.md R52). The slice is
unsigned; nothing is sign extended (70_reset_and_hazards.md R174). -/
def lane {w : Nat} (x : BitVec w) (k : Nat) : Byte := x.extractLsb' (8 * k) 8

/-- Slot `k` of a code, bits `[16k+15:16k]` (00_scope.md R13). -/
def slot (c : Code) (k : Nat) : BitVec 16 := c.extractLsb' (16 * k) 16

/-- Nibble `m` of a plain value, bits `[4m+3:4m]` (42_contracts.md R141). -/
def nibble (x : Value) (m : Nat) : Nibble := x.extractLsb' (4 * m) 4

/-- The even-bit mask (00_scope.md R5). -/
def evenMask : Byte := 0x55#8

/-- The odd-bit mask (00_scope.md R5). -/
def oddMask : Byte := 0xAA#8

/-- One tap of a datapath: the index it presents to its table and the constant amount by which it shifts the entry
it reads (00_scope.md R10). -/
structure Tap where
  index : Byte
  shift : Nat
deriving DecidableEq, Repr

end Sys2Proof.Machine
end

