-- ==== Sys2Proof/Machine/State.lean ====
section
/-! DEFINITION. State, Fault, Refusal and the reset state. The block's own state is the unit type (spec/10_state.md R20),
held apart from the host's side of the interface, which the host's `step` needs to find a command and deliver a response. -/

namespace Sys2Proof.Machine

/-- The machine state of the block: "the machine state type is the unit type" (10_state.md R20). No register, program
counter, flag, control register or hidden state (R21 to R25, R28); the two tables are constants, not state (R29). -/
abbrev BlockState := Unit

/-- The host's side of the interface, no part of the block (70_reset_and_hazards.md R181, assumption entry 1). No result
reads `responses`, or any command of `pending` but the one being served. -/
structure HostSide where
  /-- The command words the host has presented and the block has not taken yet, the next one first. -/
  pending : List Cmd
  /-- The response words delivered so far, the oldest first. -/
  responses : List Rsp
deriving DecidableEq, Repr

/-- What a step goes from and to: the block's machine state and, apart from it, the host's side. Nothing else (10_state.md
R20). -/
structure State extends HostSide where
  /-- The block's machine state, of the unit type (10_state.md R20). -/
  block : BlockState := ()
deriving DecidableEq, Repr

/-- The reasons a step stops with a fault: none. "The set of exception causes is empty" (60_exceptions.md R150). -/
inductive Fault where
deriving DecidableEq, Repr

/-- The reasons a step is refused. -/
inductive Refusal where
  /-- An instruction without a meaning, by its mnemonic. Required by the host's interface; nothing in this model
  raises it, since both operations have their meaning (60_exceptions.md R150). Safe. Assumption entry 10. -/
  | notModelled (mnemonic : String)
deriving DecidableEq, Repr

/-- After reset there is no register to set and no value to give (10_state.md R30, 70_reset_and_hazards.md R170).
The host has presented nothing and nothing has been delivered: assumption entry 8. -/
def State.reset : State where
  block := ()
  pending := []
  responses := []

end Sys2Proof.Machine
end

