-- ==== Sys2Proof/Machine/Ops.lean ====
section
/-! DEFINITION. The operations the two meanings and the step share: combining the terms of a datapath, delivering a
response, taking a command, presenting one. The block has no register, memory write, flag, exception entry or exception
return to name here (spec/10_state.md R20 to R25, 20_memory.md R50, 60_exceptions.md R150, R155, R156). -/

namespace Sys2Proof.Machine

/-- `OR_{k} e(k)`, the bitwise OR of the terms (00_scope.md R9). The order of the terms is immaterial
(40_interleave.md R92); assumption entry 9. -/
def orAll {w : Nat} (terms : List (BitVec w)) : BitVec w := terms.foldr (· ||| ·) 0#w

/-- `zext_N(v) << n` within `N` bits: the one way an entry enters an accumulator (70_reset_and_hazards.md R174,
00_scope.md R9). -/
def place {m : Nat} (n : Nat) (entry : BitVec m) (amount : Nat) : BitVec n := entry.zeroExtend n <<< amount

/-- Delivers the response of the transaction being served (30_encoding.md R73). Nothing else changes. -/
def State.respond (s : State) (r : Rsp) : State := { s with responses := s.responses ++ [r] }

/-- Takes the next command the host has presented, if there is one. -/
def State.takeCommand (s : State) : Option (Cmd × State) :=
  match s.pending with
  | [] => none
  | w :: rest => some (w, { s with pending := rest })

/-- The host presents one more command, behind those it has presented already: the one thing the host can do to the
block (70_reset_and_hazards.md R181). -/
def State.submit (s : State) (w : Cmd) : State := { s with pending := s.pending ++ [w] }

/-- The host presents a command that is to be taken next. -/
def State.presentNext (s : State) (w : Cmd) : State := { s with pending := w :: s.pending }

end Sys2Proof.Machine
end

