-- ==== Sys2Proof/Machine/Tables.lean ====
section
/-! DEFINITION. The two read-only lookup tables (spec/20_memory.md R40 to R50). They are constants, not state
(10_state.md R20, R29): there is no write and no load phase. Assumption entry 5. -/

namespace Sys2Proof.Machine

/-- `ILUT[v]` (R42), by the normative generating rule R41: bit `i` of the index at bit `2i`, odd bits zero. -/
def ilut (v : Byte) : Spread :=
  BitVec.ofFnLE fun i : Fin 16 => i.val % 2 == 0 && v.getLsbD (i.val / 2)

/-- `DLUT[v]` (R46), by rule R47, which extends the generating rule R45 to all 256 indices. The 225 entries that
R47 alone fixes are never read (R48). Assumption entry 4. -/
def dlut (v : Byte) : Nibble :=
  BitVec.ofFnLE fun j : Fin 4 => v.getLsbD (2 * j.val) || v.getLsbD (2 * j.val + 1)

/-- One table read: a space and the index of a whole entry (R40, R54). -/
inductive TableRead where
  | ilut (index : Byte)
  | dlut (index : Byte)
deriving DecidableEq, Repr

/-- The width of the entry a read returns, `n` of `MemRead(addr, n)` (00_scope.md R9; R54). -/
def TableRead.width : TableRead → Nat
  | .ilut _ => 16
  | .dlut _ => 4

/-- `MemRead(ILUT:i, 16) = ILUT[i]` and `MemRead(DLUT:i, 4) = DLUT[i]` (00_scope.md R9). It cannot fail: every
8-bit index selects an entry (R42, R46, R55). -/
def memRead : (r : TableRead) → BitVec r.width
  | .ilut i => Sys2Proof.Machine.ilut i
  | .dlut i => Sys2Proof.Machine.dlut i

end Sys2Proof.Machine
end

