-- ==== Sys2Proof/Machine/Deinterleave.lean ====
section
/-! DEFINITION. The `DEINTERLEAVE` operation (spec/41_deinterleave.md): the table-driven datapath of R112 and the meaning
of R110. -/

namespace Sys2Proof.Machine

/-- The eight taps of one result: each byte lane of the code under the result's mask, nibble `k` shifted by `4k` (R112).
The mask is applied before the lookup (R115). -/
def deinterleaveTaps (mask : Byte) (c : Code) : List Tap :=
  (List.range 8).map fun k => { index := lane c k &&& mask, shift := 4 * k }

/-- The contribution of one tap, `PA_k` or `PB_k`, read from the table `table`: the 4-bit entry, zero extended to 32 bits,
then shifted (R112). -/
def deinterleaveTerm (table : Byte → Nibble) (t : Tap) : Value := place 32 (table t.index) t.shift

/-- One result of the datapath: the OR of its eight contributions (R112). -/
def deinterleaveHalf (table : Byte → Nibble) (mask : Byte) (c : Code) : Value :=
  orAll ((deinterleaveTaps mask c).map (deinterleaveTerm table))

/-- The datapath of R112 over any deinterleave table: `valueA` through the even mask, `valueB` through the odd one. The
block's table is `dlut`; the source leaves the table open at the indices the datapath never presents (20_memory.md R47
to R49). -/
def deinterleaveWith (table : Byte → Nibble) (c : Code) : Value × Value :=
  (deinterleaveHalf table evenMask c, deinterleaveHalf table oddMask c)

/-- `DE_LUT(code)` (R112). -/
def deinterleaveDatapath (c : Code) : Value × Value := deinterleaveWith dlut c

/-- `DEINTERLEAVE` (R110): the response is `{valueB, valueA}`; nothing is written, no flag, no exception. -/
def execDeinterleave (c : Code) (s : State) : Host.Outcome State Fault Refusal :=
  .next (s.respond (packPair (deinterleaveDatapath c).1 (deinterleaveDatapath c).2))

end Sys2Proof.Machine
end

