-- ==== Sys2Proof/Machine/Interleave.lean ====
section
/-! DEFINITION. The `INTERLEAVE` operation (spec/40_interleave.md): the table-driven datapath of R92 and the meaning of
R90. -/

namespace Sys2Proof.Machine

/-- The taps of one operand: its four byte lanes, lane `k` shifted by `16k` more than `base` (R92). -/
def interleaveLaneTaps (x : Value) (base : Nat) : List Tap :=
  (List.range 4).map fun k => { index := lane x k, shift := 16 * k + base }

/-- The eight taps of the datapath: `valueA` to positions 0, 16, 32, 48 and `valueB` to 1, 17, 33, 49 (R92). These are
the eight reads of `ILUT` (20_memory.md R56). -/
def interleaveTaps (a b : Value) : List Tap := interleaveLaneTaps a 0 ++ interleaveLaneTaps b 1

/-- The contribution of one tap, `CA_k` or `CB_k`: the 16-bit entry, zero extended to 64 bits, then shifted (R92). -/
def interleaveTerm (t : Tap) : Code := place 64 (ilut t.index) t.shift

/-- `IL_LUT(valueA, valueB)`: the OR of the eight contributions (R92). -/
def interleaveDatapath (a b : Value) : Code := orAll ((interleaveTaps a b).map interleaveTerm)

/-- `INTERLEAVE` (R90): the response is the code; nothing is written, no flag, no exception. -/
def execInterleave (a b : Value) (s : State) : Host.Outcome State Fault Refusal :=
  .next (s.respond (interleaveDatapath a b))

end Sys2Proof.Machine
end

