-- ==== Sys2Proof/Machine/Dispatch.lean ====
section
/-! DEFINITION. The dispatch: one arm per instruction (spec/10_state.md R27). -/

namespace Sys2Proof.Machine

def exec (i : Instr) (s : State) : Host.Outcome State Fault Refusal :=
  match i with
  | .interleave a b => Sys2Proof.Machine.execInterleave a b s
  | .deinterleave c => Sys2Proof.Machine.execDeinterleave c s

end Sys2Proof.Machine
end

