-- ==== Sys2Proof/Machine/Step.lean ====
section
/-! DEFINITION. The step: one transaction (spec/00_scope.md R11). -/

namespace Sys2Proof.Machine

/-- One transaction: the block takes the next command the host has presented, decodes it and runs it (R11, 10_state.md
R27). Where the host has presented none, nothing happens (assumption entry 2). -/
def step (s : State) : Host.Outcome State Fault Refusal :=
  match s.takeCommand with
  | none => .next s
  | some (w, s') => exec (decode w) s'

/-- `s` with the command whose bits are the low `nbits` of `w` presented next, so that the very next step serves exactly
it; the commands already pending stay behind it. Assumption entries 3, 11. -/
def State.withFetchWord (s : State) (nbits w : Nat) : State := s.presentNext (BitVec.ofNat 65 (w % 2 ^ nbits))

end Sys2Proof.Machine
end

