-- ==== Sys2Proof/Laws/Words.lean ====
section
/-! SUPPORT. What each slice, packing and byte lane holds, bit by bit (spec/30_encoding.md R70, R72, R74;
spec/20_memory.md R52). -/

namespace Sys2Proof

/-- Every bit of `{b, a}`: the low half from `a`, the high half from `b`. -/
theorem getLsbD_packPair (a b : Value) (i : Nat) :
    (packPair a b).getLsbD i = if i < 32 then a.getLsbD i else b.getLsbD (i - 32) :=
  BitVec.getLsbD_append (x := b) (y := a)

/-- Every bit of `{op, opnd}`: the payload in bits 63 to 0, the operation in bit 64. -/
theorem getLsbD_packCmd (o : Op) (p : Opnd) (i : Nat) :
    (packCmd o p).getLsbD i = if i < 64 then p.getLsbD i else (BitVec.ofBool o.toBit).getLsbD (i - 64) :=
  BitVec.getLsbD_append (x := BitVec.ofBool o.toBit) (y := p)

@[simp] theorem lowHalf_packPair (a b : Value) : lowHalf (packPair a b) = a := by
  apply BitVec.eq_of_getLsbD_eq
  intro i hi
  simp [lowHalf, getLsbD_packPair, hi]

@[simp] theorem highHalf_packPair (a b : Value) : highHalf (packPair a b) = b := by
  apply BitVec.eq_of_getLsbD_eq
  intro i hi
  simp [highHalf, getLsbD_packPair, hi]

@[simp] theorem Op.ofBit_toBit (o : Op) : Op.ofBit o.toBit = o := by cases o <;> rfl

@[simp] theorem Cmd.op_packCmd (o : Op) (p : Opnd) : Cmd.op (packCmd o p) = o := by
  rw [Cmd.op, getLsbD_packCmd]
  cases o <;> rfl

@[simp] theorem Cmd.opnd_packCmd (o : Op) (p : Opnd) : Cmd.opnd (packCmd o p) = p := by
  apply BitVec.eq_of_getLsbD_eq
  intro i hi
  simp [Cmd.opnd, getLsbD_packCmd, hi]

namespace Machine

/-- Bit `j` of byte lane `k` is bit `8k + j` of the value. -/
theorem getLsbD_lane {w : Nat} (x : BitVec w) (k j : Nat) :
    (lane x k).getLsbD j = (decide (j < 8) && x.getLsbD (8 * k + j)) := by
  simp [lane]

end Machine
end Sys2Proof
end

