-- ==== Sys2Proof/Laws/PerInstr.lean ====
section
/-! SUPPORT. Facts about every instruction as a term, one lemma per constructor. -/

namespace Sys2Proof.Laws

/-- The encoding of an instruction carries its own operation in bit 64 (spec/30_encoding.md R71, R76). -/
def OpField.Statement (i : Instr) : Prop := (encode i).getLsbD 64 = i.op.toBit

theorem OpField.interleave (a b : Value) : OpField.Statement (.interleave a b) := by
  rw [OpField.Statement, encode, getLsbD_packCmd]
  simp

theorem OpField.deinterleave (c : Code) : OpField.Statement (.deinterleave c) := by
  rw [OpField.Statement, encode, getLsbD_packCmd]
  simp

end Sys2Proof.Laws
end

