-- ==== Sys2Proof/Machine/Law.lean ====
section
/-! DEFINITION. The bit-placement laws (spec/40_interleave.md R91, spec/41_deinterleave.md R111) and the transaction
function `Exec` (spec/10_state.md R27), written from the laws alone: no table, no decoder. The machine runs the table
datapaths of R92 and R112 instead; that the two agree is what the statements say (assumption entry 13). -/

namespace Sys2Proof.Machine

/-- `IL(valueA, valueB)` (R91): `code[2i] = valueA[i]`, `code[2i+1] = valueB[i]`. -/
def lawInterleave (a b : Value) : Code :=
  BitVec.ofFnLE fun p : Fin 64 => if p.val % 2 = 0 then a.getLsbD (p.val / 2) else b.getLsbD (p.val / 2)

/-- `DE(code)` (R111): `valueA[i] = code[2i]`, `valueB[i] = code[2i+1]`. -/
def lawDeinterleave (c : Code) : Value × Value :=
  (BitVec.ofFnLE fun i : Fin 32 => c.getLsbD (2 * i.val), BitVec.ofFnLE fun i : Fin 32 => c.getLsbD (2 * i.val + 1))

/-- `Exec(cmd)` (10_state.md R27), the whole behaviour of the block, written as that rule writes it. -/
def transact (w : Cmd) : Rsp :=
  if w.getLsbD 64 = false then lawInterleave (w.extractLsb' 0 32) (w.extractLsb' 32 32)
  else (lawDeinterleave (w.extractLsb' 0 64)).2 ++ (lawDeinterleave (w.extractLsb' 0 64)).1

end Sys2Proof.Machine
end

