-- ==== Sys2Proof/Machine/Ports.lean ====
section
/-! DEFINITION. The named-port view of the interface (spec/30_encoding.md R79; 10_state.md R26): the same information as
the packed words. Assumption entry 15. -/

namespace Sys2Proof.Machine

/-- The input ports of the named view: `op`, `valueA_in`, `valueB_in`, `code_in` (R79). -/
structure PortInputs where
  op : Op
  valueAIn : Value
  valueBIn : Value
  codeIn : Code
deriving DecidableEq, Repr

/-- What the named output ports carry for an operation: `code_out`, or `valueA_out` and `valueB_out` (R79). -/
inductive PortResult where
  | codeOut (code : Code)
  | valuesOut (valueA valueB : Value)
deriving DecidableEq, Repr

/-- The packed command of a port view: `opnd = {valueB_in, valueA_in}` or `code_in` (R79). -/
def portCmd (p : PortInputs) : Cmd :=
  match p.op with
  | .interleave => packCmd .interleave (packPair p.valueAIn p.valueBIn)
  | .deinterleave => packCmd .deinterleave p.codeIn

/-- The port view of a response: `res = code_out` or `{valueB_out, valueA_out}` (R79). -/
def portResult (o : Op) (r : Rsp) : PortResult :=
  match o with
  | .interleave => .codeOut r
  | .deinterleave => .valuesOut (lowHalf r) (highHalf r)

end Sys2Proof.Machine
end

