-- ==== Sys2Proof/Machine/Reads.lean ====
section
/-! DEFINITION. The table reads of a transaction (spec/20_memory.md R56): the indices of the very taps the datapaths
combine. The list's order is not the block's: no order of the reads is specified (R56). -/

namespace Sys2Proof.Machine

/-- Every table read an instruction performs. -/
def tableReads : Instr → List TableRead
  | .interleave a b => (interleaveTaps a b).map fun t => .ilut t.index
  | .deinterleave c => (deinterleaveTaps evenMask c ++ deinterleaveTaps oddMask c).map fun t => .dlut t.index

end Sys2Proof.Machine
end

