-- ==== Sys2Proof/Machine/Script.lean ====
section
/-! DEFINITION. The host's script notation (spec/30_encoding.md R80, R81; decision D17): one line is one command.
Assumption entry 14. -/

namespace Sys2Proof.Machine

/-- The operation each of the six names stands for (00_scope.md R14, R81). -/
def opOfName : OpName → Op
  | .mnemonicInterleave => .interleave
  | .mnemonicDeinterleave => .deinterleave
  | .shortInterleave => .interleave
  | .shortDeinterleave => .deinterleave
  | .longInterleave => .interleave
  | .longDeinterleave => .deinterleave

/-- Why a line is an error of the script (R80). Never an outcome of the block. -/
inductive ScriptError where
  /-- The operation does not take that many operands. Raised by `assemble`; safe. -/
  | wrongOperandCount
  /-- A literal does not fit its operand's width (R80). Raised by `assemble`; safe. -/
  | literalTooWide
deriving DecidableEq, Repr

/-- The one command a line of a script stands for, or the script's error (R80, R81). -/
def assemble (l : ScriptLine) : Except ScriptError Instr :=
  match opOfName l.name, l.operands with
  | .interleave, [a, b] =>
    if literalFits 32 a && literalFits 32 b then .ok (.interleave (BitVec.ofNat 32 a) (BitVec.ofNat 32 b))
    else .error .literalTooWide
  | .deinterleave, [c] =>
    if literalFits 64 c then .ok (.deinterleave (BitVec.ofNat 64 c)) else .error .literalTooWide
  | _, _ => .error .wrongOperandCount

end Sys2Proof.Machine
end

