-- ==== Sys2Proof/Safety.lean ====
section
/-! DEFINITION. What counts as a safe run, in the terms the statements use. -/

namespace Sys2Proof.Safety

open Sys2Proof.Machine

/-- The step at `s` ends in a next state: no fault, no refusal (spec/60_exceptions.md R150). -/
def Answers (s : State) : Prop := ∃ t, step s = .next t

/-- Every response of the run through `s`: those delivered, then the response `Exec` gives each command still pending
(spec/10_state.md R27). -/
def account (s : State) : List Rsp := s.responses ++ s.pending.map transact

/-- The run through `s` delivers exactly `total`. -/
def Accounts (total : List Rsp) (s : State) : Prop := account s = total

/-- The host has presented no further command: the run has ended (spec/70_reset_and_hazards.md R181). -/
def Drained (s : State) : Prop := s.pending = []

end Sys2Proof.Safety
end

