-- ==== Sys2Proof/Certificates/Slice0/Obligations.lean ====
section
/-! DEFINITION. The statements for the provers. `interleaveDatapath` and `deinterleaveDatapath` are what the two meanings
run (spec/40_interleave.md R92, spec/41_deinterleave.md R112); `lawInterleave`, `lawDeinterleave` and `transact` are the
functions `IL`, `DE` and `Exec` of R91, R111 and 10_state.md R27. Where a statement speaks of `pending` and `responses`,
these two lists are the model's own view of the host (assumption entry 1); such a statement is derived, never stated. -/

open Sys2Proof Sys2Proof.Machine Sys2Proof.Safety

/-! ## Encoding and the step -/

/-- A step serves the next pending command: it runs the instruction the command word decodes to, in the state from
which that command has been taken (10_state.md R27, 30_encoding.md R82). Entry 1: the lists are the model's. -/
def Obligations.StepRunsTheDecodedCommand : Prop :=
  ∀ (w : Cmd) (rest : List Cmd) (rs : List Rsp),
    step { pending := w :: rest, responses := rs } = exec (decode w) { pending := rest, responses := rs }

/-- With no command presented nothing happens. The model's choice, entry 2; the spec says only that a run ends when the
host presents no further command (70_reset_and_hazards.md R181). -/
def Obligations.StepWithNothingPendingIsIdle : Prop :=
  ∀ rs : List Rsp, step { pending := [], responses := rs } = .next { pending := [], responses := rs }

/-- A table word placed with `withFetchWord` is decoded and served by the very next step, in any state, and the commands
already pending stay. The model's loading convention, entries 3 and 11. -/
def Obligations.FetchedWordIsServedNext : Prop :=
  ∀ (s : State) (w : Cmd),
    decodeTableWord 72 w.toNat = some (decode w) ∧ step (s.withFetchWord 72 w.toNat) = exec (decode w) s

/-- Command words written out in 95_test_vectors.md section 2.6 decode to the instructions named there. -/
def Obligations.SampleWordsDecode : Prop :=
  decode 0x0_0000_0000_0000_0000#65 = .interleave 0#32 0#32 ∧
  decode 0x1_0000_0000_0000_0000#65 = .deinterleave 0#64 ∧
  decode 0x0_0000_0001_0000_0000#65 = .interleave 0#32 1#32 ∧
  decode 0x0_0000_0000_0000_0001#65 = .interleave 1#32 0#32 ∧
  decode 0x1_0000_0001_0000_0000#65 = .deinterleave 0x0000_0001_0000_0000#64

/-- R82: `Decode` tests bit 64 and cuts the operands by R72; `Encode` writes them back; each undoes the other, for every
term and for every command word. -/
def Obligations.DecodeAndEncodeAreInverse : Prop :=
  (∀ w : Cmd, decode w =
      if w.getLsbD 64 = false then .interleave (w.extractLsb' 0 32) (w.extractLsb' 32 32)
      else .deinterleave (w.extractLsb' 0 64)) ∧
  (∀ a b : Value, encode (.interleave a b) = (0#1 ++ b ++ a : BitVec (1 + 32 + 32))) ∧
  (∀ c : Code, encode (.deinterleave c) = (1#1 ++ c : BitVec (1 + 64))) ∧
  (∀ i : Instr, decode (encode i) = i) ∧
  (∀ w : Cmd, encode (decode w) = w)

/-- R77: every one of the `2^65` command words is legal: it decodes, to a well-formed instruction of the operation its
`op` bit names, and that instruction has a result in every state. -/
def Obligations.EveryCommandWordIsLegal : Prop :=
  ∀ w : Cmd,
    decodeNumeral w.toNat = .ok (decode w) ∧ (decode w).wellFormed = true ∧
    (decode w).op = Op.ofBit (w.getLsbD 64) ∧ ∀ s : State, ∃ t, exec (decode w) s = .next t

/-- R76: the mask and match of each row of the opcode map select exactly the words that decode to it, and bit 64 alone
decides. -/
def Obligations.OpcodeMapSelectsByBit64Alone : Prop :=
  (∀ w : Cmd, w &&& 0x1_0000_0000_0000_0000#65 = 0x0_0000_0000_0000_0000#65 ↔
      decode w = .interleave (w.extractLsb' 0 32) (w.extractLsb' 32 32)) ∧
  (∀ w : Cmd, w &&& 0x1_0000_0000_0000_0000#65 = 0x1_0000_0000_0000_0000#65 ↔
      decode w = .deinterleave (w.extractLsb' 0 64)) ∧
  (∀ w w' : Cmd, w.getLsbD 64 = w'.getLsbD 64 → (decode w).op = (decode w').op)

/-- A numeral that needs more than 65 bits is no command word (the one command format is 65 bits, R70, R78) and the
numeral decoder rejects it by name; every other numeral decodes. The rejection's name is the model's, entry 11. -/
def Obligations.WideNumeralsAreRejectedByName : Prop :=
  ∀ w : Nat,
    (2 ^ 65 ≤ w → decodeNumeral w = .error .widerThanCommand) ∧
    (w < 2 ^ 65 → decodeNumeral w = .ok (decode (BitVec.ofNat 65 w)))

/-! ## The tables -/

/-- R41: bit `i` of the index is bit `2i` of the entry, the odd bits are zero; as a number the entry is the sum of
`v[i] * 4^i`. -/
def Obligations.InterleaveTableSpreadsItsIndex : Prop :=
  ∀ v : Byte,
    (∀ i : Fin 8, (ilut v).getLsbD (2 * i) = v.getLsbD i ∧ (ilut v).getLsbD (2 * i + 1) = false) ∧
    (ilut v).toNat = ∑ i ∈ Finset.range 8, (v.getLsbD i).toNat * 4 ^ i

/-- R43 (a) to (f). -/
def Obligations.InterleaveTableHasItsSixProperties : Prop :=
  (∀ v : Byte, ilut v &&& 0xAAAA#16 = 0#16) ∧
  (∀ v : Byte, (ilut v).toNat ≤ 0x5555 ∧ (ilut v).getLsbD 15 = false ∧
      (ilut v <<< 1).toNat = (ilut v).toNat * 2) ∧
  (∀ v : Byte, (ilut v <<< 1) &&& 0x5555#16 = 0#16) ∧
  ((∀ u v : Byte, ilut u ||| ilut v = ilut (u ||| v)) ∧ ilut 0#8 = 0#16 ∧ ilut 0xFF#8 = 0x5555#16) ∧
  (∀ u v : Byte, ilut u = ilut v → u = v) ∧
  (∀ v : Byte,
    (ilut v).extractLsb' 0 8 = (ilut (v &&& 0x0F#8)).extractLsb' 0 8 ∧
    (ilut v).extractLsb' 8 8 = (ilut (v >>> 4)).extractLsb' 0 8)

/-- R45: at an index with even bits only, nibble bit `j` is bit `2j`; at an index with odd bits only, bit `2j + 1`; both
clauses apply to index 0 and agree there; together they define 31 of the 256 entries. -/
def Obligations.DeinterleaveTableCollapsesMaskedIndices : Prop :=
  (∀ v : Byte, v &&& 0xAA#8 = 0#8 → ∀ j : Fin 4, (dlut v).getLsbD j = v.getLsbD (2 * j)) ∧
  (∀ v : Byte, v &&& 0x55#8 = 0#8 → ∀ j : Fin 4, (dlut v).getLsbD j = v.getLsbD (2 * j + 1)) ∧
  dlut 0#8 = 0#4 ∧
  (Finset.univ.filter fun v : Fin 256 =>
    BitVec.ofFin (w := 8) v &&& 0xAA#8 = 0#8 ∨ BitVec.ofFin (w := 8) v &&& 0x55#8 = 0#8).card = 31

/-- R137 with its exact statement: from the two bytes of an interleave entry the deinterleave table recovers the two
nibbles of the source byte, on the even path and, shifted by one, on the odd path. -/
def Obligations.TablesComposeToTheSourceByte : Prop :=
  ∀ v : Byte,
    dlut ((ilut v).extractLsb' 0 8 &&& 0x55#8) = v.extractLsb' 0 4 ∧
    dlut ((ilut v).extractLsb' 8 8 &&& 0x55#8) = v.extractLsb' 4 4 ∧
    dlut ((ilut v <<< 1).extractLsb' 0 8 &&& 0xAA#8) = v.extractLsb' 0 4 ∧
    dlut ((ilut v <<< 1).extractLsb' 8 8 &&& 0xAA#8) = v.extractLsb' 4 4

/-- R48: every table read of a `DEINTERLEAVE` is a read of `DLUT` at a byte lane of the code under one of the two
masks, hence at one of the 31 indices with even bits only or odd bits only; each of those indices is presented for some
code; and neither operation reads `DLUT` at any other index. -/
def Obligations.DatapathPresentsExactlyTheDefinedIndices : Prop :=
  (∀ (c : Code) (r : TableRead), r ∈ tableReads (.deinterleave c) →
      ∃ k : Fin 8, r = .dlut (lane c k &&& 0x55#8) ∨ r = .dlut (lane c k &&& 0xAA#8)) ∧
  (∀ y : Byte, y &&& 0xAA#8 = 0#8 ∨ y &&& 0x55#8 = 0#8 →
      ∃ c : Code, TableRead.dlut y ∈ tableReads (.deinterleave c)) ∧
  (∀ (i : Instr) (y : Byte), TableRead.dlut y ∈ tableReads i → y &&& 0xAA#8 = 0#8 ∨ y &&& 0x55#8 = 0#8)

/-- 20_memory.md R40 and R56: an `INTERLEAVE` reads `ILUT` alone, once at each of the four byte lanes of each operand; a
`DEINTERLEAVE` reads `DLUT` alone, at each of the eight byte lanes of the code under each mask; the read primitive returns
the whole 16-bit or 4-bit entry. The order in the lists is no claim (entry 9): they are compared up to order. -/
def Obligations.EachOperationReadsItsOwnTable : Prop :=
  (∀ a b : Value, (tableReads (.interleave a b)).Perm
      [.ilut (lane a 0), .ilut (lane a 1), .ilut (lane a 2), .ilut (lane a 3),
       .ilut (lane b 0), .ilut (lane b 1), .ilut (lane b 2), .ilut (lane b 3)]) ∧
  (∀ c : Code, (tableReads (.deinterleave c)).Perm
      [.dlut (lane c 0 &&& 0x55#8), .dlut (lane c 0 &&& 0xAA#8), .dlut (lane c 1 &&& 0x55#8), .dlut (lane c 1 &&& 0xAA#8),
       .dlut (lane c 2 &&& 0x55#8), .dlut (lane c 2 &&& 0xAA#8), .dlut (lane c 3 &&& 0x55#8), .dlut (lane c 3 &&& 0xAA#8),
       .dlut (lane c 4 &&& 0x55#8), .dlut (lane c 4 &&& 0xAA#8), .dlut (lane c 5 &&& 0x55#8), .dlut (lane c 5 &&& 0xAA#8),
       .dlut (lane c 6 &&& 0x55#8), .dlut (lane c 6 &&& 0xAA#8), .dlut (lane c 7 &&& 0x55#8), .dlut (lane c 7 &&& 0xAA#8)]) ∧
  (∀ y : Byte, memRead (.ilut y) = ilut y ∧ memRead (.dlut y) = dlut y)

/-- No result depends on what the source leaves open in the deinterleave table (20_memory.md R44, R47, R48): with ANY table
that meets the generating rule R45 at the 31 indices it defines, the datapath returns the pair of the law. -/
def Obligations.AnyTableMeetingTheGeneratingRuleDecodes : Prop :=
  ∀ table : Byte → Nibble,
    (∀ v : Byte, v &&& 0xAA#8 = 0#8 → ∀ j : Fin 4, (table v).getLsbD j = v.getLsbD (2 * j)) →
    (∀ v : Byte, v &&& 0x55#8 = 0#8 → ∀ j : Fin 4, (table v).getLsbD j = v.getLsbD (2 * j + 1)) →
    ∀ c : Code, deinterleaveWith table c = lawDeinterleave c

/-- R49: with two tables instead of one, `DLUT_even[y] = DLUT[y & 0x55]` and `DLUT_odd[y] = DLUT[y & 0xAA]`, read at the
unmasked byte, `DEINTERLEAVE` returns the same pair. -/
def Obligations.TwoTablesDecodeAsOneDoes : Prop :=
  ∀ (even odd : Byte → Nibble),
    (∀ y : Byte, even y = dlut (y &&& 0x55#8)) → (∀ y : Byte, odd y = dlut (y &&& 0xAA#8)) →
    ∀ c : Code, (deinterleaveHalf even 0xFF#8 c, deinterleaveHalf odd 0xFF#8 c) = deinterleaveDatapath c

/-! ## INTERLEAVE -/

/-- R91: bit `2i` of the code is bit `i` of `valueA` and bit `2i + 1` is bit `i` of `valueB`; as a number the code is the
sum of `valueA[i] * 4^i + valueB[i] * 2 * 4^i`. -/
def Obligations.InterleaveFollowsTheBitPlacementLaw : Prop :=
  ∀ a b : Value,
    (∀ i : Fin 32, (interleaveDatapath a b).getLsbD (2 * i) = a.getLsbD i ∧
      (interleaveDatapath a b).getLsbD (2 * i + 1) = b.getLsbD i) ∧
    (interleaveDatapath a b).toNat =
      ∑ i ∈ Finset.range 32, ((a.getLsbD i).toNat * 4 ^ i + (b.getLsbD i).toNat * 2 * 4 ^ i)

/-- R93: the table-driven datapath of R92 computes the law of R91, for all operands. -/
def Obligations.InterleaveDatapathComputesTheLaw : Prop :=
  ∀ a b : Value, interleaveDatapath a b = lawInterleave a b

/-- `INTERLEAVE` runs in every state, on every pair of operands: its response is the code the law R91 gives, and nothing
else changes (R90, R94). That the response is appended to `responses` is the model's view of the host, entry 1. -/
def Obligations.InterleaveCompletesWithTheCode : Prop :=
  ∀ (a b : Value) (s : State),
    exec (.interleave a b) s = .next { s with responses := s.responses ++ [lawInterleave a b] }

/-- R95: (a) the contribution of lane `k` of `valueA` has only the even bits of slot `k`, that of `valueB` only the odd
ones, so the eight contributions are pairwise disjoint and their OR is their sum; (b) only lane 3 of `valueB` reaches bit
63, exactly when `valueB[31]` is 1, and no shift loses a set bit; (c) the shift by one may be done in 16 bits. -/
def Obligations.InterleaveTermsNeitherOverlapNorLoseABit : Prop :=
  ∀ a b : Value,
    (∀ (k : Fin 4) (p : Nat), (interleaveTerm ⟨lane a k, 16 * k⟩).getLsbD p = true →
      ∃ i : Fin 8, p = 16 * k + 2 * i) ∧
    (∀ (k : Fin 4) (p : Nat), (interleaveTerm ⟨lane b k, 16 * k + 1⟩).getLsbD p = true →
      ∃ i : Fin 8, p = 16 * k + 1 + 2 * i) ∧
    ((interleaveTaps a b).map interleaveTerm).Pairwise (fun x y => x &&& y = 0#64) ∧
    (interleaveDatapath a b).toNat = ((interleaveTaps a b).map fun t => (interleaveTerm t).toNat).sum ∧
    (interleaveTerm ⟨lane b 3, 49⟩).getLsbD 63 = b.getLsbD 31 ∧
    (∀ t ∈ interleaveTaps a b, (interleaveTerm t).toNat = (ilut t.index).toNat * 2 ^ t.shift) ∧
    (∀ (v : Byte) (k : Fin 4), (ilut v).getLsbD 15 = false ∧
      place 64 (ilut v) (16 * k + 1) = place 64 (ilut v <<< 1) (16 * k))

/-- R96: slot `k` of the code depends on lane `k` of the operands alone, by a 16-bit expression, and the code is its four
slots. -/
def Obligations.InterleaveSlotsAreIndependentLanes : Prop :=
  ∀ a b : Value,
    (∀ k : Fin 4, slot (interleaveDatapath a b) k = ilut (lane a k) ||| (ilut (lane b k) <<< 1)) ∧
    interleaveDatapath a b =
      (slot (interleaveDatapath a b) 3 ++ slot (interleaveDatapath a b) 2 ++
        slot (interleaveDatapath a b) 1 ++ slot (interleaveDatapath a b) 0 : BitVec (16 + 16 + 16 + 16))

/-- R97, every row of its table. -/
def Obligations.InterleaveCornerCases : Prop :=
  interleaveDatapath 0#32 0#32 = 0#64 ∧
  interleaveDatapath 0xFFFFFFFF#32 0xFFFFFFFF#32 = 0xFFFFFFFFFFFFFFFF#64 ∧
  interleaveDatapath 1#32 0#32 = 1#64 ∧
  interleaveDatapath 0#32 1#32 = 2#64 ∧
  interleaveDatapath 0xFFFFFFFF#32 0#32 = 0x5555555555555555#64 ∧
  interleaveDatapath 0#32 0xFFFFFFFF#32 = 0xAAAAAAAAAAAAAAAA#64 ∧
  interleaveDatapath 0x80000000#32 0#32 = 0x4000000000000000#64 ∧
  interleaveDatapath 0#32 0x80000000#32 = 0x8000000000000000#64 ∧
  (∀ (v : Value) (i : Fin 32),
    (interleaveDatapath v v).getLsbD (2 * i) = (interleaveDatapath v v).getLsbD (2 * i + 1)) ∧
  (∀ v : Value, interleaveDatapath v v = 3#64 * interleaveDatapath v 0#32) ∧
  (∀ (a b : Value) (i : Fin 32),
    (interleaveDatapath b a).getLsbD (2 * i) = (interleaveDatapath a b).getLsbD (2 * i + 1) ∧
    (interleaveDatapath b a).getLsbD (2 * i + 1) = (interleaveDatapath a b).getLsbD (2 * i)) ∧
  (∃ a b : Value, interleaveDatapath b a ≠ interleaveDatapath a b) ∧
  interleaveDatapath 0x00000100#32 0#32 = 0x0000000000010000#64

/-- R133: bit `2i` of the code is bit `i` of `a`, bit `2i + 1` is bit `i` of `b`; each of the 64 single-bit operands goes to
its single bit of the code. -/
def Obligations.SingleBitOperandsGoToSingleBits : Prop :=
  (∀ (a b : Value) (i : Fin 32), (interleaveDatapath a b).getLsbD (2 * i) = a.getLsbD i ∧
    (interleaveDatapath a b).getLsbD (2 * i + 1) = b.getLsbD i) ∧
  (∀ i : Fin 32, interleaveDatapath (1#32 <<< i.val) 0#32 = 1#64 <<< (2 * i.val) ∧
    interleaveDatapath 0#32 (1#32 <<< i.val) = 1#64 <<< (2 * i.val + 1))

/-- R136: the odd bits of the code are those of `IL(0, b)`, whatever `a` is, and the even bits those of `IL(a, 0)`,
whatever `b` is. -/
def Obligations.OperandsAreIndependent : Prop :=
  (∀ a b : Value, interleaveDatapath a b &&& 0xAAAAAAAAAAAAAAAA#64 = interleaveDatapath 0#32 b) ∧
  (∀ a b : Value, interleaveDatapath a b &&& 0x5555555555555555#64 = interleaveDatapath a 0#32) ∧
  (∀ a a' b : Value, (interleaveDatapath a b ^^^ interleaveDatapath a' b) &&& 0xAAAAAAAAAAAAAAAA#64 = 0#64) ∧
  (∀ a b b' : Value, (interleaveDatapath a b ^^^ interleaveDatapath a b') &&& 0x5555555555555555#64 = 0#64) ∧
  interleaveDatapath 1#32 0#32 = 1#64 ∧ interleaveDatapath 0#32 1#32 = 2#64

/-! ## DEINTERLEAVE -/

/-- R111: bit `i` of `valueA` is bit `2i` of the code and bit `i` of `valueB` is bit `2i + 1`; the pair is the unique one
that `INTERLEAVE` produces this code from. -/
def Obligations.DeinterleaveFollowsTheLaw : Prop :=
  ∀ c : Code,
    (∀ i : Fin 32, (deinterleaveDatapath c).1.getLsbD i = c.getLsbD (2 * i) ∧
      (deinterleaveDatapath c).2.getLsbD i = c.getLsbD (2 * i + 1)) ∧
    (∀ a b : Value, interleaveDatapath a b = c ↔ deinterleaveDatapath c = (a, b))

/-- R113: the table-driven datapath of R112 computes the law of R111, for every code. -/
def Obligations.DeinterleaveDatapathComputesTheLaw : Prop :=
  ∀ c : Code, deinterleaveDatapath c = lawDeinterleave c

/-- `DEINTERLEAVE` runs in every state, on every code: its response is `{valueB, valueA}` with the pair the law R111 gives,
and nothing else changes (R110, R114). That the response is appended to `responses` is the model's view of the host,
entry 1. -/
def Obligations.DeinterleaveCompletesWithThePair : Prop :=
  ∀ (c : Code) (s : State),
    exec (.deinterleave c) s =
      .next { s with responses := s.responses ++ [((lawDeinterleave c).2 ++ (lawDeinterleave c).1 : BitVec (32 + 32))] }

/-- R116: nibble `k` of each result depends on byte lane `k` of the code alone. -/
def Obligations.DeinterleaveNibblesAreIndependentLanes : Prop :=
  ∀ (c : Code) (k : Fin 8),
    nibble (deinterleaveDatapath c).1 k = dlut (lane c k &&& 0x55#8) ∧
    nibble (deinterleaveDatapath c).2 k = dlut (lane c k &&& 0xAA#8)

/-- R117, every row of its table. -/
def Obligations.DeinterleaveCornerCases : Prop :=
  deinterleaveDatapath 0#64 = (0#32, 0#32) ∧
  deinterleaveDatapath 0xFFFFFFFFFFFFFFFF#64 = (0xFFFFFFFF#32, 0xFFFFFFFF#32) ∧
  deinterleaveDatapath 1#64 = (1#32, 0#32) ∧
  deinterleaveDatapath 2#64 = (0#32, 1#32) ∧
  deinterleaveDatapath 0x5555555555555555#64 = (0xFFFFFFFF#32, 0#32) ∧
  deinterleaveDatapath 0xAAAAAAAAAAAAAAAA#64 = (0#32, 0xFFFFFFFF#32) ∧
  deinterleaveDatapath 0x8000000000000000#64 = (0#32, 0x80000000#32) ∧
  deinterleaveDatapath 0x4000000000000000#64 = (0x80000000#32, 0#32) ∧
  deinterleaveDatapath 0x00000000000000FF#64 = (0xF#32, 0xF#32) ∧
  deinterleaveDatapath 0x838C8FB0B3BCBF40#64 = (0x12345678#32, 0x9ABCDEF0#32)

/-! ## Contracts between the two operations -/

/-- R130: decoding a code gives back the two values it was made from, exactly, for every pair; in the command encoding,
`Exec({1'b1, Exec({1'b0, w})}) = w` for every 64-bit `w`. -/
def Obligations.RoundTripReturnsTheOperands : Prop :=
  (∀ a b : Value, deinterleaveDatapath (interleaveDatapath a b) = (a, b)) ∧
  (∀ w : Opnd, transact (packCmd .deinterleave (transact (packCmd .interleave w))) = w)

/-- R131: interleaving the two values of a code gives back the code; in the command encoding,
`Exec({1'b0, Exec({1'b1, c})}) = c`. -/
def Obligations.ReverseRoundTripReturnsTheCode : Prop :=
  (∀ c : Code, interleaveDatapath (deinterleaveDatapath c).1 (deinterleaveDatapath c).2 = c) ∧
  (∀ c : Code, transact (packCmd .interleave (transact (packCmd .deinterleave c))) = c)

/-- The round trip through the machine, two transactions one after the other: the response of an `INTERLEAVE`, presented as
the operand of a `DEINTERLEAVE`, returns the operand payload of the first (42_contracts.md R130; 30_encoding.md R74). Entry
1: the lists are the model's. -/
def Obligations.TwoTransactionsRestoreThePayload : Prop :=
  ∀ (p : Opnd) (rs : List Rsp), ∃ r : Rsp,
    step { pending := [packCmd .interleave p], responses := rs } = .next { pending := [], responses := rs ++ [r] } ∧
    step { pending := [packCmd .deinterleave r], responses := rs ++ [r] } =
      .next { pending := [], responses := rs ++ [r, p] }

/-- R132: `IL` is a bijection from the pairs onto the codes with two-sided inverse `DE`, and both only move bits: bit `i` of
`{b, a}` goes to bit `2i` for `i < 32` and to bit `2(i - 32) + 1` from 32 on, and comes back from there. -/
def Obligations.InterleaveIsABitPermutation : Prop :=
  Function.Bijective (fun p : Value × Value => interleaveDatapath p.1 p.2) ∧
  Function.LeftInverse deinterleaveDatapath (fun p : Value × Value => interleaveDatapath p.1 p.2) ∧
  Function.RightInverse deinterleaveDatapath (fun p : Value × Value => interleaveDatapath p.1 p.2) ∧
  (∀ (a b : Value) (i : Fin 64), (packPair a b).getLsbD i =
    (interleaveDatapath a b).getLsbD (if i.val < 32 then 2 * i else 2 * (i - 32) + 1)) ∧
  (∀ (c : Code) (i : Fin 64), (packPair (deinterleaveDatapath c).1 (deinterleaveDatapath c).2).getLsbD i =
    c.getLsbD (if i.val < 32 then 2 * i else 2 * (i - 32) + 1))

/-- R134 and R135: zero goes to zero and all ones to all ones, both ways. -/
def Obligations.ZeroAndAllOnesAreFixed : Prop :=
  interleaveDatapath 0#32 0#32 = 0#64 ∧ deinterleaveDatapath 0#64 = (0#32, 0#32) ∧
  interleaveDatapath 0xFFFFFFFF#32 0xFFFFFFFF#32 = 0xFFFFFFFFFFFFFFFF#64 ∧
  deinterleaveDatapath 0xFFFFFFFFFFFFFFFF#64 = (0xFFFFFFFF#32, 0xFFFFFFFF#32)

/-- R138 (and R98): the example vector, both ways. -/
def Obligations.ExampleVectorHasItsValue : Prop :=
  interleaveDatapath 0x12345678#32 0x9ABCDEF0#32 = 0x838C8FB0B3BCBF40#64 ∧
  deinterleaveDatapath 0x838C8FB0B3BCBF40#64 = (0x12345678#32, 0x9ABCDEF0#32)

/-- R140: both operations commute with AND, OR and XOR; the OR-decomposition; the shift relation with no bit lost; the
number of set bits is kept. -/
def Obligations.OperationsCommuteWithBitwiseLogic : Prop :=
  (∀ a a' b b' : Value,
    interleaveDatapath (a &&& a') (b &&& b') = interleaveDatapath a b &&& interleaveDatapath a' b' ∧
    interleaveDatapath (a ||| a') (b ||| b') = interleaveDatapath a b ||| interleaveDatapath a' b' ∧
    interleaveDatapath (a ^^^ a') (b ^^^ b') = interleaveDatapath a b ^^^ interleaveDatapath a' b') ∧
  (∀ c c' : Code,
    deinterleaveDatapath (c &&& c') =
      ((deinterleaveDatapath c).1 &&& (deinterleaveDatapath c').1, (deinterleaveDatapath c).2 &&& (deinterleaveDatapath c').2) ∧
    deinterleaveDatapath (c ||| c') =
      ((deinterleaveDatapath c).1 ||| (deinterleaveDatapath c').1, (deinterleaveDatapath c).2 ||| (deinterleaveDatapath c').2) ∧
    deinterleaveDatapath (c ^^^ c') =
      ((deinterleaveDatapath c).1 ^^^ (deinterleaveDatapath c').1, (deinterleaveDatapath c).2 ^^^ (deinterleaveDatapath c').2)) ∧
  (∀ a b : Value, interleaveDatapath a b = interleaveDatapath a 0#32 ||| interleaveDatapath 0#32 b) ∧
  (∀ b : Value, interleaveDatapath 0#32 b = interleaveDatapath b 0#32 <<< 1 ∧
    (interleaveDatapath b 0#32).getLsbD 63 = false) ∧
  (∀ a b : Value, (interleaveDatapath a b).cpop.toNat = a.cpop.toNat + b.cpop.toNat)

/-- R141: slot `k` of a code is a function of lane `k` of the two operands, nibble `m` of each decoded value a function of
lane `m` of the code; the low half of a code depends only on the low halves of the operands and the high half only on the
high halves. -/
def Obligations.LanesDoNotInteract : Prop :=
  (∀ (a a' b b' : Value) (k : Fin 4), lane a k = lane a' k → lane b k = lane b' k →
    slot (interleaveDatapath a b) k = slot (interleaveDatapath a' b') k) ∧
  (∀ (c c' : Code) (m : Fin 8), lane c m = lane c' m →
    nibble (deinterleaveDatapath c).1 m = nibble (deinterleaveDatapath c').1 m ∧
    nibble (deinterleaveDatapath c).2 m = nibble (deinterleaveDatapath c').2 m) ∧
  (∀ a a' b b' : Value, a.extractLsb' 0 16 = a'.extractLsb' 0 16 → b.extractLsb' 0 16 = b'.extractLsb' 0 16 →
    lowHalf (interleaveDatapath a b) = lowHalf (interleaveDatapath a' b')) ∧
  (∀ a a' b b' : Value, a.extractLsb' 16 16 = a'.extractLsb' 16 16 → b.extractLsb' 16 16 = b'.extractLsb' 16 16 →
    highHalf (interleaveDatapath a b) = highHalf (interleaveDatapath a' b'))

/-- R10: the shift amounts are constants that no operand changes: those by which the contributions are placed, and the `8k`
by which a byte lane of the code is cut; none reaches the width of its result. -/
def Obligations.ShiftAmountsAreConstants : Prop :=
  (∀ a b : Value, (interleaveTaps a b).map Tap.shift = [0, 16, 32, 48, 1, 17, 33, 49]) ∧
  (∀ (mask : Byte) (c : Code), (deinterleaveTaps mask c).map Tap.shift = [0, 4, 8, 12, 16, 20, 24, 28]) ∧
  (∀ (c : Code) (k : Fin 8), lane c k = (c >>> (8 * k.val)).setWidth 8 ∧ 8 * k.val < 64) ∧
  (∀ (a b : Value), ∀ t ∈ interleaveTaps a b, t.shift ≤ 49 ∧ t.shift < 64) ∧
  (∀ (mask : Byte) (c : Code), ∀ t ∈ deinterleaveTaps mask c, t.shift ≤ 28 ∧ t.shift < 32)

/-- The order in which the contributions are OR-ed is immaterial (40_interleave.md R92, 41_deinterleave.md R112): over the
taps of a datapath in any order the result is the same. -/
def Obligations.OrderOfTheTermsIsImmaterial : Prop :=
  (∀ (a b : Value) (taps : List Tap), taps.Perm (interleaveTaps a b) →
    orAll (taps.map interleaveTerm) = interleaveDatapath a b) ∧
  (∀ (c : Code) (taps : List Tap), taps.Perm (deinterleaveTaps evenMask c) →
    orAll (taps.map (deinterleaveTerm dlut)) = (deinterleaveDatapath c).1) ∧
  (∀ (c : Code) (taps : List Tap), taps.Perm (deinterleaveTaps oddMask c) →
    orAll (taps.map (deinterleaveTerm dlut)) = (deinterleaveDatapath c).2)

/-- Every widening is a zero extension (70_reset_and_hazards.md R174): a byte lane is the unsigned number of its eight bits,
and an entry placed in its accumulator is its unsigned value times a power of two, with no bit above it set, at every shift
a datapath uses. -/
def Obligations.EveryWideningIsAZeroExtension : Prop :=
  (∀ (x : Value) (k : Fin 4), (lane x k).toNat = x.toNat / 2 ^ (8 * k.val) % 256) ∧
  (∀ (c : Code) (k : Fin 8), (lane c k).toNat = c.toNat / 2 ^ (8 * k.val) % 256) ∧
  (∀ (v : Byte) (k : Fin 4),
    (place 64 (ilut v) (16 * k)).toNat = (ilut v).toNat * 2 ^ (16 * k.val) ∧
    (place 64 (ilut v) (16 * k + 1)).toNat = (ilut v).toNat * 2 ^ (16 * k.val + 1)) ∧
  (∀ (v : Byte) (k : Fin 8), (place 32 (dlut v) (4 * k)).toNat = (dlut v).toNat * 2 ^ (4 * k.val))

/-! ## The machine -/

/-- The block holds no mutable state (10_state.md R20, R21, R29): its machine state has one value; a state is that value and
the host's two lists and nothing else; it is the same after a step as before, and after reset. The two lists are the
model's, entry 1. -/
def Obligations.BlockStateIsTheUnitType : Prop :=
  (∀ x y : BlockState, x = y) ∧
  (∀ s t : State, s.pending = t.pending → s.responses = t.responses → s = t) ∧
  (∀ s t : State, step s = .next t → t.block = s.block) ∧
  State.reset.block = ()

/-- The machine refines the transaction function of 10_state.md R27: serving a command takes it from the pending ones and
delivers exactly `Exec` of it, computed by the law, whatever else the state holds. Entry 1: the lists are the model's. -/
def Obligations.StepRefinesTheTransactionFunction : Prop :=
  ∀ (w : Cmd) (rest : List Cmd) (rs : List Rsp),
    step { pending := w :: rest, responses := rs } = .next { pending := rest, responses := rs ++ [transact w] }

/-- A sequence of commands yields `Exec` of each, in order (10_state.md R27), and every accepted command is answered
(70_reset_and_hazards.md R179): from any state, as many steps as there are commands answer them all and leave those behind
them untouched. Entry 1: the lists are the model's. -/
def Obligations.RunAnswersEveryPendingCommand : Prop :=
  ∀ (cmds later : List Cmd) (rs : List Rsp),
    Sys2Proof.core.run cmds.length { pending := cmds ++ later, responses := rs } =
      .next { pending := later, responses := rs ++ cmds.map transact }

/-- An invariant of every step, from every state: the responses delivered so far, followed by the response `Exec` gives
each command still pending, is the same list before and after (10_state.md R27, R28). Entry 1: the lists are the model's. -/
def Obligations.EveryStepKeepsTheAccount : Prop :=
  ∀ (total : List Rsp) (s t : State), Accounts total s → step s = .next t → Accounts total t

/-- Right after reset the invariant holds of the empty account. The reset values of the two lists are the model's, entry 8;
the block itself has nothing to reset (70_reset_and_hazards.md R170). -/
def Obligations.ResetAccountsForNothing : Prop :=
  Accounts [] Sys2Proof.core.reset ∧ Drained Sys2Proof.core.reset ∧
    (Sys2Proof.core.reset : State).responses = []

/-- Derived from R150: the set of exception causes is empty; every instruction returns a response in every state; and no step,
from any state, ends in a fault or a refusal. The response appended to `responses` is entry 1, a step with nothing pending
entry 2, the empty type of faults and the refusal that the host's interface asks for entry 10. -/
def Obligations.NoCommandFaultsOrIsRefused : Prop :=
  IsEmpty Fault ∧ (∀ (i : Instr) (s : State), ∃ r : Rsp, exec i s = .next (s.respond r)) ∧
  (∀ (s : State) (f : Fault), step s ≠ .fault f) ∧ (∀ (s : State) (r : Refusal), step s ≠ .refused r)

/-- The response to a command depends on the command alone: two states with the same next command, and anything at all
besides, one of them the state after reset, deliver the same response (10_state.md R21, R28, R31). Entry 1: the lists are
the model's. The second clause rests on entries 3 and 11 also (a command is placed with `withFetchWord`) and on entry 8 (both
lists are empty after reset). -/
def Obligations.ResponseIsIndependentOfHistory : Prop :=
  ∀ w : Cmd, ∃ r : Rsp,
    (∀ (rest : List Cmd) (rs : List Rsp),
      step { pending := w :: rest, responses := rs } = .next { pending := rest, responses := rs ++ [r] }) ∧
    step (State.reset.withFetchWord 72 w.toNat) = .next { pending := [], responses := [r] }

/-- Every state answers; and what a step leaves unchanged: the pending commands but the one served, and every response already delivered; it adds one
response for a command and none otherwise. Derived from 10_state.md R27 and 70_reset_and_hazards.md R181; the case of
nothing pending is the model's, entry 2. -/
def Obligations.StepChangesOnlyTheServedTransaction : Prop :=
  ∀ s : State, Answers s ∧ ∀ t : State, step s = .next t →
    t.pending = s.pending.tail ∧
    ∃ new : List Rsp, t.responses = s.responses ++ new ∧ new.length = if s.pending = [] then 0 else 1

/-- What the host presents later alters no response: presenting a command before or after a step that serves another one
leads to the same state (70_reset_and_hazards.md R181, R178). Entry 1: the lists are the model's. -/
def Obligations.LaterCommandsAlterNoResponse : Prop :=
  ∀ (s t : State) (w : Cmd), s.pending ≠ [] → step s = .next t → step (s.submit w) = .next (t.submit w)

/-- Requesters that share the block do not affect each other (60_exceptions.md R160): tag each command with its requester,
in any interleaving; each requester receives `Exec` of its own commands, in its own order. Entry 6: the block serves the
requests in the order of one list. -/
def Obligations.ConcurrentRequestersGetTheirOwnResponses : Prop :=
  ∀ (tagged : List (Nat × Cmd)) (rs : List Rsp), ∃ out : List Rsp, out.length = tagged.length ∧
    Sys2Proof.core.run tagged.length { pending := tagged.map Prod.snd, responses := rs } =
      .next { pending := [], responses := rs ++ out } ∧
    ∀ requester : Nat,
      ((tagged.zip out).filter fun x => x.1.1 == requester).map Prod.snd =
        (tagged.filter fun x => x.1 == requester).map fun x => transact x.2

/-- Any permutation of the commands returns the same responses, permuted the same way (95_test_vectors.md section 2.7;
10_state.md R27). Entry 1: the lists are the model's. -/
def Obligations.ReorderedCommandsGetTheSameResponses : Prop :=
  ∀ (cmds cmds' : List Cmd) (rs rs' : List Rsp), cmds.Perm cmds' → ∃ out out' : List Rsp,
    Sys2Proof.core.run cmds.length { pending := cmds, responses := rs } =
      .next { pending := [], responses := rs ++ out } ∧
    Sys2Proof.core.run cmds'.length { pending := cmds', responses := rs' } =
      .next { pending := [], responses := rs' ++ out' } ∧
    out.length = cmds.length ∧ out'.length = cmds'.length ∧ (cmds.zip out).Perm (cmds'.zip out')

/-- The named-port view carries the same transactions as the packed words (30_encoding.md R79): the response to the packed
command of a port view, seen through the named outputs, is the code of `valueA_in` and `valueB_in`, or the two values of
`code_in`. Entries 1 and 15. -/
def Obligations.NamedPortsCarryTheSameTransactions : Prop :=
  ∀ (p : PortInputs) (rest : List Cmd) (rs : List Rsp), ∃ r : Rsp,
    step { pending := portCmd p :: rest, responses := rs } = .next { pending := rest, responses := rs ++ [r] } ∧
    portResult p.op r =
      match p.op with
      | .interleave => .codeOut (lawInterleave p.valueAIn p.valueBIn)
      | .deinterleave => .valuesOut (lawDeinterleave p.codeIn).1 (lawDeinterleave p.codeIn).2

/-- A line of a script is a command exactly when it gives as many literals as its operation takes and each fits, `valueA`
before `valueB`; the six names stand for the two operations (30_encoding.md R81). From R80 come the widths that a literal must
fit and the order of the operands. Entry 14: that a wrong number of operands is an error is deduced from the notation, and
that a line holds literals only, like the names of the errors, is the model's choice. -/
def Obligations.ScriptLinesAssembleExactlyWhenTheyFit : Prop :=
  (∀ l : ScriptLine, (∃ i, assemble l = .ok i) ↔ (opOfName l.name).acceptsLiterals l.operands = true) ∧
  (∀ a b : Value, assemble ⟨.mnemonicInterleave, [a.toNat, b.toNat]⟩ = .ok (.interleave a b)) ∧
  (∀ c : Code, assemble ⟨.mnemonicDeinterleave, [c.toNat]⟩ = .ok (.deinterleave c)) ∧
  (∀ ns : List Nat,
    assemble ⟨.shortInterleave, ns⟩ = assemble ⟨.mnemonicInterleave, ns⟩ ∧
    assemble ⟨.longInterleave, ns⟩ = assemble ⟨.mnemonicInterleave, ns⟩ ∧
    assemble ⟨.shortDeinterleave, ns⟩ = assemble ⟨.mnemonicDeinterleave, ns⟩ ∧
    assemble ⟨.longDeinterleave, ns⟩ = assemble ⟨.mnemonicDeinterleave, ns⟩)
end

