-- ==== Sys2Proof/Config.lean ====
section
/-! DEFINITION. The two parameters the spec leaves open (spec/00_scope.md R6). No rule depends on either,
so nothing in the model reads them; they have no body, so no proof can give them a value. The block has no
configuration that changes a result (10_state.md R24, 42_contracts.md R139). -/

namespace Sys2Proof

/-- `LATENCY`, the time from command to response (R6, 70_reset_and_hazards.md R180, decision D8).
Assumption entry 7. -/
opaque Config.latency : Nat

/-- `NPORTS`, the number of command ports (R6, 60_exceptions.md R160, decision D16).
Assumption entry 6. -/
opaque Config.nports : Nat

end Sys2Proof
end

