-- ==== Sys2Proof/Laws/Datapath.lean ====
section
/-! SUPPORT. For each operation the datapaths share, what it computes bit by bit; for each datapath, the eight terms of its
pseudocode (spec/40_interleave.md R92, spec/41_deinterleave.md R112). -/

namespace Sys2Proof.Machine

/-- A bit of an OR of terms is set exactly when some term sets it. -/
theorem getLsbD_orAll {w : Nat} (terms : List (BitVec w)) (i : Nat) :
    (orAll terms).getLsbD i = terms.any fun t => t.getLsbD i := by
  induction terms with
  | nil => simp [orAll]
  | cons t ts ih =>
    have unfoldOnce : orAll (t :: ts) = t ||| orAll ts := rfl
    simp [unfoldOnce, ih]

/-- Placing an entry moves bit `j` to bit `amount + j`; every other bit is 0. -/
theorem getLsbD_place {m : Nat} (n : Nat) (entry : BitVec m) (amount i : Nat) :
    (place n entry amount).getLsbD i = (decide (i < n) && (!decide (i < amount) && entry.getLsbD (i - amount))) := by
  simp only [place, BitVec.getLsbD_shiftLeft, BitVec.zeroExtend, BitVec.getLsbD_setWidth]
  by_cases h : i < n <;> by_cases h' : i < amount <;> simp [h, h']
  omega

/-- Every bit of an interleave entry: bit `i / 2` of the index at even `i`, 0 at odd `i` (20_memory.md R41). -/
theorem getLsbD_ilut (v : Byte) (i : Nat) :
    (ilut v).getLsbD i = (decide (i < 16) && (i % 2 == 0 && v.getLsbD (i / 2))) := by
  by_cases h : i < 16 <;> simp [ilut, BitVec.getLsbD_ofFnLE, h]

/-- Every bit of a deinterleave entry (20_memory.md R47). -/
theorem getLsbD_dlut (v : Byte) (j : Nat) :
    (dlut v).getLsbD j = (decide (j < 4) && (v.getLsbD (2 * j) || v.getLsbD (2 * j + 1))) := by
  by_cases h : j < 4 <;> simp [dlut, BitVec.getLsbD_ofFnLE, h]

/-- Every bit of the code the law gives (40_interleave.md R91). -/
theorem getLsbD_lawInterleave (a b : Value) (p : Nat) :
    (lawInterleave a b).getLsbD p =
      (decide (p < 64) && if p % 2 = 0 then a.getLsbD (p / 2) else b.getLsbD (p / 2)) := by
  by_cases h : p < 64 <;> simp [lawInterleave, BitVec.getLsbD_ofFnLE, h]

/-- Every bit of the first value the law gives (41_deinterleave.md R111). -/
theorem getLsbD_lawDeinterleave_fst (c : Code) (i : Nat) :
    (lawDeinterleave c).1.getLsbD i = (decide (i < 32) && c.getLsbD (2 * i)) := by
  by_cases h : i < 32 <;> simp [lawDeinterleave, BitVec.getLsbD_ofFnLE, h]

/-- Every bit of the second value the law gives (41_deinterleave.md R111). -/
theorem getLsbD_lawDeinterleave_snd (c : Code) (i : Nat) :
    (lawDeinterleave c).2.getLsbD i = (decide (i < 32) && c.getLsbD (2 * i + 1)) := by
  by_cases h : i < 32 <;> simp [lawDeinterleave, BitVec.getLsbD_ofFnLE, h]

/-- The eight terms of `IL_LUT` as its pseudocode writes them (40_interleave.md R92). -/
theorem interleaveDatapath_terms (a b : Value) :
    interleaveDatapath a b =
      orAll [place 64 (ilut (lane a 0)) 0, place 64 (ilut (lane a 1)) 16,
        place 64 (ilut (lane a 2)) 32, place 64 (ilut (lane a 3)) 48,
        place 64 (ilut (lane b 0)) 1, place 64 (ilut (lane b 1)) 17,
        place 64 (ilut (lane b 2)) 33, place 64 (ilut (lane b 3)) 49] := rfl

/-- The eight terms of one result of `DE_LUT` as its pseudocode writes them (41_deinterleave.md R112). -/
theorem deinterleaveHalf_terms (table : Byte → Nibble) (mask : Byte) (c : Code) :
    deinterleaveHalf table mask c =
      orAll [place 32 (table (lane c 0 &&& mask)) 0, place 32 (table (lane c 1 &&& mask)) 4,
        place 32 (table (lane c 2 &&& mask)) 8, place 32 (table (lane c 3 &&& mask)) 12,
        place 32 (table (lane c 4 &&& mask)) 16, place 32 (table (lane c 5 &&& mask)) 20,
        place 32 (table (lane c 6 &&& mask)) 24, place 32 (table (lane c 7 &&& mask)) 28] := rfl

end Sys2Proof.Machine
end

