-- ==== Sys2Proof/Laws/State.lean ====
section
/-! SUPPORT. One lemma per field of `State` per update, so that no later proof unfolds a record update. -/

namespace Sys2Proof.Machine

/-- The block's machine state has one value, so no update of `State` changes it. -/
@[simp] theorem State.block_eq (s : State) : s.block = () := rfl
@[simp] theorem State.respond_pending (s : State) (r : Rsp) : (s.respond r).pending = s.pending := rfl
@[simp] theorem State.respond_responses (s : State) (r : Rsp) : (s.respond r).responses = s.responses ++ [r] := rfl
@[simp] theorem State.submit_pending (s : State) (w : Cmd) : (s.submit w).pending = s.pending ++ [w] := rfl
@[simp] theorem State.submit_responses (s : State) (w : Cmd) : (s.submit w).responses = s.responses := rfl
@[simp] theorem State.presentNext_pending (s : State) (w : Cmd) : (s.presentNext w).pending = w :: s.pending := rfl
@[simp] theorem State.presentNext_responses (s : State) (w : Cmd) : (s.presentNext w).responses = s.responses := rfl
@[simp] theorem State.withFetchWord_pending (s : State) (n w : Nat) :
    (s.withFetchWord n w).pending = BitVec.ofNat 65 (w % 2 ^ n) :: s.pending := rfl
@[simp] theorem State.withFetchWord_responses (s : State) (n w : Nat) :
    (s.withFetchWord n w).responses = s.responses := rfl
@[simp] theorem State.reset_pending : State.reset.pending = [] := rfl
@[simp] theorem State.reset_responses : State.reset.responses = [] := rfl

/-- All that taking a command can do: there is none, or it is the first one and the rest stays. -/
theorem State.takeCommand_cases (s : State) :
    (s.pending = [] ∧ s.takeCommand = none) ∨
      ∃ w rest, s.pending = w :: rest ∧ s.takeCommand = some (w, { s with pending := rest }) := by
  obtain ⟨⟨pending, responses⟩, block⟩ := s
  cases pending with
  | nil => exact .inl ⟨rfl, rfl⟩
  | cons w rest => exact .inr ⟨w, rest, rfl, rfl⟩

end Sys2Proof.Machine
end

