-- ==== Sys2Proof/Laws/Exec.lean ====
section
/-! SUPPORT. What an instruction and a step can do, said once. -/

namespace Sys2Proof.Machine

theorem execInterleave_eq (a b : Value) (s : State) :
    execInterleave a b s = .next (s.respond (interleaveDatapath a b)) := rfl

theorem execDeinterleave_eq (c : Code) (s : State) :
    execDeinterleave c s = .next (s.respond (packPair (deinterleaveDatapath c).1 (deinterleaveDatapath c).2)) := rfl

/-- All that an instruction can do: deliver one response. -/
theorem exec_cases {i : Instr} {s t : State} (h : exec i s = .next t) : ∃ r, t = s.respond r := by
  cases i with
  | interleave a b => exact ⟨_, (Host.Outcome.next.inj h).symm⟩
  | deinterleave c => exact ⟨_, (Host.Outcome.next.inj h).symm⟩

/-- All that a step can do: stay where it is with nothing pending, or run the decoded first command. -/
theorem step_cases {s t : State} (h : step s = .next t) :
    (s.pending = [] ∧ t = s) ∨
      ∃ w rest, s.pending = w :: rest ∧ exec (decode w) { s with pending := rest } = .next t := by
  rcases s.takeCommand_cases with ⟨none, taken⟩ | ⟨w, rest, first, taken⟩
  · simp only [step, taken] at h
    exact .inl ⟨none, (Host.Outcome.next.inj h).symm⟩
  · simp only [step, taken] at h
    exact .inr ⟨w, rest, first, h⟩

end Sys2Proof.Machine
end

