-- ==== Sys2Proof/Tests/Slice0.lean ====
section
/-! SUPPORT. Checks of the model against values printed in the spec, and witnesses for the hypotheses of the statements. -/

namespace Sys2Proof.Tests

open Sys2Proof Sys2Proof.Machine Sys2Proof.Safety

set_option maxRecDepth 8000

/-! Well-formedness: an ill-formed script operand list for each check (spec/30_encoding.md R80) -/

theorem test_wellFormed_instructions :
    (Instr.interleave 0xFFFFFFFF#32 0#32).wellFormed = true ∧ (Instr.deinterleave 0#64).wellFormed = true := by decide

theorem test_refuses_operand_count :
    Op.interleave.acceptsLiterals [1] = false ∧ Op.deinterleave.acceptsLiterals [1, 2] = false := by decide

theorem test_refuses_wide_literal :
    Op.interleave.acceptsLiterals [0x100000000, 0] = false ∧ Op.interleave.acceptsLiterals [0, 0x100000000] = false ∧
    Op.deinterleave.acceptsLiterals [0x10000000000000000] = false := by decide

theorem test_accepts_widest_literals :
    Op.interleave.acceptsLiterals [0xFFFFFFFF, 0xFFFFFFFF] = true ∧
    Op.deinterleave.acceptsLiterals [0xFFFFFFFFFFFFFFFF] = true := by decide

theorem test_assemble_errors :
    assemble ⟨.shortInterleave, [1]⟩ = .error .wrongOperandCount ∧
    assemble ⟨.longDeinterleave, [2 ^ 64]⟩ = .error .literalTooWide := by decide

/-! Decoding: words written out bit by bit from the patterns of spec/30_encoding.md R76 (bit 64, then 63:32, then 31:0) -/

/-- `0`, `valueB = 0x9ABCDEF0`, `valueA = 0x12345678` (95_test_vectors.md, row S7). -/
theorem test_decode_interleave_word :
    decode (0b0_10011010101111001101111011110000_00010010001101000101011001111000#65) =
      .interleave 0x12345678#32 0x9ABCDEF0#32 := by decide

/-- `1`, `code = 0x0123456789ABCDEF` (95_test_vectors.md section 2.4). -/
theorem test_decode_deinterleave_word :
    decode (0b1_00000001001000110100010101100111_10001001101010111100110111101111#65) =
      .deinterleave 0x0123456789ABCDEF#64 := by decide

/-- The encoder writes the command words of 95_test_vectors.md sections 2.2 and 2.4. -/
theorem test_encode_words :
    encode (.interleave 0xDEADBEEF#32 0xCAFEBABE#32) = 0x0_CAFEBABEDEADBEEF#65 ∧
    encode (.deinterleave 0xF1DCEEF9CFDCDEFD#64) = 0x1_F1DCEEF9CFDCDEFD#65 := by decide

theorem test_table_words :
    decodeTableWord 72 0x09ABCDEF012345678 = some (.interleave 0x12345678#32 0x9ABCDEF0#32) ∧
    decodeTableWord 72 0x1000000000000000F = some (.deinterleave 0xF#64) ∧
    decodeTableWord 72 0x20000000000000000 = none := by decide

/-! The tables, as the spec lists them -/

/-- 20_memory.md R42, indices 0x00 to 0x3F. -/
def ilutListing0 : List Nat := [
  0x0000, 0x0001, 0x0004, 0x0005, 0x0010, 0x0011, 0x0014, 0x0015, 0x0040, 0x0041, 0x0044, 0x0045, 0x0050, 0x0051, 0x0054, 0x0055,
  0x0100, 0x0101, 0x0104, 0x0105, 0x0110, 0x0111, 0x0114, 0x0115, 0x0140, 0x0141, 0x0144, 0x0145, 0x0150, 0x0151, 0x0154, 0x0155,
  0x0400, 0x0401, 0x0404, 0x0405, 0x0410, 0x0411, 0x0414, 0x0415, 0x0440, 0x0441, 0x0444, 0x0445, 0x0450, 0x0451, 0x0454, 0x0455,
  0x0500, 0x0501, 0x0504, 0x0505, 0x0510, 0x0511, 0x0514, 0x0515, 0x0540, 0x0541, 0x0544, 0x0545, 0x0550, 0x0551, 0x0554, 0x0555]

/-- 20_memory.md R42, indices 0x40 to 0x7F. -/
def ilutListing1 : List Nat := [
  0x1000, 0x1001, 0x1004, 0x1005, 0x1010, 0x1011, 0x1014, 0x1015, 0x1040, 0x1041, 0x1044, 0x1045, 0x1050, 0x1051, 0x1054, 0x1055,
  0x1100, 0x1101, 0x1104, 0x1105, 0x1110, 0x1111, 0x1114, 0x1115, 0x1140, 0x1141, 0x1144, 0x1145, 0x1150, 0x1151, 0x1154, 0x1155,
  0x1400, 0x1401, 0x1404, 0x1405, 0x1410, 0x1411, 0x1414, 0x1415, 0x1440, 0x1441, 0x1444, 0x1445, 0x1450, 0x1451, 0x1454, 0x1455,
  0x1500, 0x1501, 0x1504, 0x1505, 0x1510, 0x1511, 0x1514, 0x1515, 0x1540, 0x1541, 0x1544, 0x1545, 0x1550, 0x1551, 0x1554, 0x1555]

/-- 20_memory.md R42, indices 0x80 to 0xBF. -/
def ilutListing2 : List Nat := [
  0x4000, 0x4001, 0x4004, 0x4005, 0x4010, 0x4011, 0x4014, 0x4015, 0x4040, 0x4041, 0x4044, 0x4045, 0x4050, 0x4051, 0x4054, 0x4055,
  0x4100, 0x4101, 0x4104, 0x4105, 0x4110, 0x4111, 0x4114, 0x4115, 0x4140, 0x4141, 0x4144, 0x4145, 0x4150, 0x4151, 0x4154, 0x4155,
  0x4400, 0x4401, 0x4404, 0x4405, 0x4410, 0x4411, 0x4414, 0x4415, 0x4440, 0x4441, 0x4444, 0x4445, 0x4450, 0x4451, 0x4454, 0x4455,
  0x4500, 0x4501, 0x4504, 0x4505, 0x4510, 0x4511, 0x4514, 0x4515, 0x4540, 0x4541, 0x4544, 0x4545, 0x4550, 0x4551, 0x4554, 0x4555]

/-- 20_memory.md R42, indices 0xC0 to 0xFF. -/
def ilutListing3 : List Nat := [
  0x5000, 0x5001, 0x5004, 0x5005, 0x5010, 0x5011, 0x5014, 0x5015, 0x5040, 0x5041, 0x5044, 0x5045, 0x5050, 0x5051, 0x5054, 0x5055,
  0x5100, 0x5101, 0x5104, 0x5105, 0x5110, 0x5111, 0x5114, 0x5115, 0x5140, 0x5141, 0x5144, 0x5145, 0x5150, 0x5151, 0x5154, 0x5155,
  0x5400, 0x5401, 0x5404, 0x5405, 0x5410, 0x5411, 0x5414, 0x5415, 0x5440, 0x5441, 0x5444, 0x5445, 0x5450, 0x5451, 0x5454, 0x5455,
  0x5500, 0x5501, 0x5504, 0x5505, 0x5510, 0x5511, 0x5514, 0x5515, 0x5540, 0x5541, 0x5544, 0x5545, 0x5550, 0x5551, 0x5554, 0x5555]

/-- The listing of R42, a check of the generating rule R41. -/
theorem test_ilut_listing :
    ((List.range 256).map fun v => (ilut (BitVec.ofNat 8 v)).toNat) =
      ilutListing0 ++ ilutListing1 ++ ilutListing2 ++ ilutListing3 := by decide

/-- 20_memory.md R47, indices 0x00 to 0x3F. -/
def dlutListing0 : List Nat := [
  0x0, 0x1, 0x1, 0x1, 0x2, 0x3, 0x3, 0x3, 0x2, 0x3, 0x3, 0x3, 0x2, 0x3, 0x3, 0x3,
  0x4, 0x5, 0x5, 0x5, 0x6, 0x7, 0x7, 0x7, 0x6, 0x7, 0x7, 0x7, 0x6, 0x7, 0x7, 0x7,
  0x4, 0x5, 0x5, 0x5, 0x6, 0x7, 0x7, 0x7, 0x6, 0x7, 0x7, 0x7, 0x6, 0x7, 0x7, 0x7,
  0x4, 0x5, 0x5, 0x5, 0x6, 0x7, 0x7, 0x7, 0x6, 0x7, 0x7, 0x7, 0x6, 0x7, 0x7, 0x7]

/-- 20_memory.md R47, indices 0x40 to 0x7F. -/
def dlutListing1 : List Nat := [
  0x8, 0x9, 0x9, 0x9, 0xA, 0xB, 0xB, 0xB, 0xA, 0xB, 0xB, 0xB, 0xA, 0xB, 0xB, 0xB,
  0xC, 0xD, 0xD, 0xD, 0xE, 0xF, 0xF, 0xF, 0xE, 0xF, 0xF, 0xF, 0xE, 0xF, 0xF, 0xF,
  0xC, 0xD, 0xD, 0xD, 0xE, 0xF, 0xF, 0xF, 0xE, 0xF, 0xF, 0xF, 0xE, 0xF, 0xF, 0xF,
  0xC, 0xD, 0xD, 0xD, 0xE, 0xF, 0xF, 0xF, 0xE, 0xF, 0xF, 0xF, 0xE, 0xF, 0xF, 0xF]

/-- 20_memory.md R47, indices 0x80 to 0xBF. -/
def dlutListing2 : List Nat := [
  0x8, 0x9, 0x9, 0x9, 0xA, 0xB, 0xB, 0xB, 0xA, 0xB, 0xB, 0xB, 0xA, 0xB, 0xB, 0xB,
  0xC, 0xD, 0xD, 0xD, 0xE, 0xF, 0xF, 0xF, 0xE, 0xF, 0xF, 0xF, 0xE, 0xF, 0xF, 0xF,
  0xC, 0xD, 0xD, 0xD, 0xE, 0xF, 0xF, 0xF, 0xE, 0xF, 0xF, 0xF, 0xE, 0xF, 0xF, 0xF,
  0xC, 0xD, 0xD, 0xD, 0xE, 0xF, 0xF, 0xF, 0xE, 0xF, 0xF, 0xF, 0xE, 0xF, 0xF, 0xF]

/-- 20_memory.md R47, indices 0xC0 to 0xFF. -/
def dlutListing3 : List Nat := [
  0x8, 0x9, 0x9, 0x9, 0xA, 0xB, 0xB, 0xB, 0xA, 0xB, 0xB, 0xB, 0xA, 0xB, 0xB, 0xB,
  0xC, 0xD, 0xD, 0xD, 0xE, 0xF, 0xF, 0xF, 0xE, 0xF, 0xF, 0xF, 0xE, 0xF, 0xF, 0xF,
  0xC, 0xD, 0xD, 0xD, 0xE, 0xF, 0xF, 0xF, 0xE, 0xF, 0xF, 0xF, 0xE, 0xF, 0xF, 0xF,
  0xC, 0xD, 0xD, 0xD, 0xE, 0xF, 0xF, 0xF, 0xE, 0xF, 0xF, 0xF, 0xE, 0xF, 0xF, 0xF]

/-- The listing of R47; no statement rests on the entries that R45 does not define. -/
theorem test_dlut_listing :
    ((List.range 256).map fun v => (dlut (BitVec.ofNat 8 v)).toNat) =
      dlutListing0 ++ dlutListing1 ++ dlutListing2 ++ dlutListing3 := by decide

/-! One step of each instruction, with the values of 95_test_vectors.md -/

/-- A state with one command pending and one earlier response. -/
def pendingOne (w : Cmd) : State := { pending := [w], responses := [7#64] }

/-- What a step delivers after the earlier response, if it answers. -/
def delivered (s : State) : Option (List Rsp) :=
  match step s with
  | .next t => some (t.responses.drop 1)
  | _ => none

/-- Section 2.2, operands of section 2.3's second trace: operands exchanged give another code. -/
theorem test_interleave_general :
    delivered (pendingOne 0x0_CAFEBABEDEADBEEF#65) = some [0xF1DCEEF9CFDCDEFD#64] ∧
    delivered (pendingOne 0x0_DEADBEEFCAFEBABE#65) = some [0xF2ECDDF6CFECEDFE#64] := by decide

/-- Section 2.2: bit 31 of each operand, bit 7 of a lane, lane 1. -/
theorem test_interleave_boundaries :
    delivered (pendingOne 0x0_8000000000000000#65) = some [0x8000000000000000#64] ∧
    delivered (pendingOne 0x0_0000000080000000#65) = some [0x4000000000000000#64] ∧
    delivered (pendingOne 0x0_0000008000000000#65) = some [0x0000000000008000#64] ∧
    delivered (pendingOne 0x0_1020408001020408#65) = some [0x0201080420108040#64] := by decide

/-- Section 2.4, the traced code and its complement. -/
theorem test_deinterleave_general :
    delivered (pendingOne 0x1_0123456789ABCDEF#65) = some [0x0505AFAF11BB11BB#64] ∧
    delivered (pendingOne 0x1_FEDCBA9876543210#65) = some [0xFAFA5050EE44EE44#64] := by decide

/-- Section 2.4: bit 63, bit 62, a full lane, lane 1. -/
theorem test_deinterleave_boundaries :
    delivered (pendingOne 0x1_8000000000000000#65) = some [0x8000000000000000#64] ∧
    delivered (pendingOne 0x1_4000000000000000#65) = some [0x0000000080000000#64] ∧
    delivered (pendingOne 0x1_00000000000000FF#65) = some [0x0000000F0000000F#64] ∧
    delivered (pendingOne 0x1_000000000000FF00#65) = some [0x000000F0000000F0#64] := by decide

/-- A word placed for the next step runs as the first instruction after reset. -/
theorem test_first_instruction_after_reset :
    step (State.reset.withFetchWord 72 0x1000000000000000F) = .next { pending := [], responses := [0x0000000300000003#64] } :=
  rfl

/-! Witnesses: a concrete case that meets the hypotheses of each statement that has some, clause by clause -/

theorem witness_OpcodeMapSelectsByBit64Alone :
    (0x1_0000_0000_0000_0000#65).getLsbD 64 = (0x1_FFFF_FFFF_FFFF_FFFF#65).getLsbD 64 ∧
    (0x0_0000_0000_0000_0000#65).getLsbD 64 = (0x0_FFFF_FFFF_FFFF_FFFF#65).getLsbD 64 := by decide

theorem witness_WideNumeralsAreRejectedByName : (2 : Nat) ^ 65 ≤ 0x20000000000000000 ∧ 0x1FFFFFFFFFFFFFFFF < (2 : Nat) ^ 65 := by
  decide

theorem witness_InterleaveTableHasItsSixProperties : ilut 0xFF#8 = ilut (0xF0#8 ||| 0x0F#8) := by decide

theorem witness_DeinterleaveTableCollapsesMaskedIndices :
    (0x55#8 : Byte) &&& 0xAA#8 = 0#8 ∧ (0xAA#8 : Byte) &&& 0x55#8 = 0#8 := by decide

theorem witness_DatapathPresentsExactlyTheDefinedIndices :
    TableRead.dlut 0x55#8 ∈ tableReads (.deinterleave 0xFF#64) ∧
    TableRead.dlut 0xAA#8 ∈ tableReads (.deinterleave 0xFF00000000000000#64) := by decide

/-- A table that meets R45 and differs from the block's at the indices R45 leaves open. -/
def otherTable (v : Byte) : Nibble :=
  if v &&& 0xAA#8 = 0#8 ∨ v &&& 0x55#8 = 0#8 then dlut v else ~~~dlut v

theorem witness_AnyTableMeetingTheGeneratingRuleDecodes :
    (∀ v : Byte, v &&& 0xAA#8 = 0#8 → ∀ j : Fin 4, (otherTable v).getLsbD j = v.getLsbD (2 * j)) ∧
    (∀ v : Byte, v &&& 0x55#8 = 0#8 → ∀ j : Fin 4, (otherTable v).getLsbD j = v.getLsbD (2 * j + 1)) ∧
    otherTable 0xFF#8 ≠ dlut 0xFF#8 := by decide

theorem witness_TwoTablesDecodeAsOneDoes :
    ∃ even odd : Byte → Nibble,
      (∀ y : Byte, even y = dlut (y &&& 0x55#8)) ∧ (∀ y : Byte, odd y = dlut (y &&& 0xAA#8)) :=
  ⟨fun y => dlut (y &&& 0x55#8), fun y => dlut (y &&& 0xAA#8), fun _ => rfl, fun _ => rfl⟩

theorem witness_InterleaveTermsNeitherOverlapNorLoseABit :
    (interleaveTerm ⟨lane 0x80000000#32 3, 48⟩).getLsbD 62 = true ∧
    (interleaveTerm ⟨lane 0x80000000#32 3, 49⟩).getLsbD 63 = true ∧
    (⟨lane 0x80000000#32 3, 49⟩ : Tap) ∈ interleaveTaps 0#32 0x80000000#32 := by decide

theorem witness_LanesDoNotInteract :
    lane (0xFF00_00AA#32 : Value) 0 = lane (0x0011_22AA#32 : Value) 0 ∧
    lane (0xAA00_0000#32 : Value) 3 = lane (0xAAFF_FFFF#32 : Value) 3 ∧
    lane (0xAA00_0000_0000_0000#64 : Code) 7 = lane (0xAAFF_FFFF_FFFF_FFFF#64 : Code) 7 ∧
    (0x1234_5678#32 : Value).extractLsb' 0 16 = (0xFFFF_5678#32 : Value).extractLsb' 0 16 ∧
    (0x1234_5678#32 : Value).extractLsb' 16 16 = (0x1234_FFFF#32 : Value).extractLsb' 16 16 := by decide

theorem witness_ShiftAmountsAreConstants :
    (⟨0x80#8, 49⟩ : Tap) ∈ interleaveTaps 0#32 0x80000000#32 ∧
    (⟨0x55#8, 28⟩ : Tap) ∈ deinterleaveTaps evenMask 0xFF00000000000000#64 := by decide

theorem witness_OrderOfTheTermsIsImmaterial :
    (interleaveTaps 1#32 2#32).reverse.Perm (interleaveTaps 1#32 2#32) ∧
    (deinterleaveTaps evenMask 3#64).reverse.Perm (deinterleaveTaps evenMask 3#64) ∧
    (deinterleaveTaps oddMask 3#64).reverse.Perm (deinterleaveTaps oddMask 3#64) :=
  ⟨List.reverse_perm _, List.reverse_perm _, List.reverse_perm _⟩

theorem witness_BlockStateIsTheUnitType :
    (pendingOne 0#65).pending = [0#65] ∧ (pendingOne 0#65).responses = [7#64] ∧
    pendingOne 0#65 = { pending := [0#65], responses := [7#64] } ∧
    step (pendingOne 0#65) = .next { pending := [], responses := [7#64, 0#64] } := ⟨rfl, rfl, rfl, rfl⟩

theorem witness_EveryStepKeepsTheAccount :
    Accounts [7#64, 2#64] (pendingOne 0x0_00000001_00000000#65) ∧
    step (pendingOne 0x0_00000001_00000000#65) = .next { pending := [], responses := [7#64, 2#64] } := by
  refine ⟨?_, rfl⟩
  unfold Accounts
  decide

theorem witness_StepChangesOnlyTheServedTransaction :
    step (pendingOne 0x1_0000000000000002#65) = .next { pending := [], responses := [7#64, 0x0000000100000000#64] } ∧
    step { pending := [], responses := [7#64] } = .next { pending := [], responses := [7#64] } := ⟨rfl, rfl⟩

theorem witness_LaterCommandsAlterNoResponse :
    (pendingOne 0#65).pending ≠ [] ∧ step (pendingOne 0#65) = .next { pending := [], responses := [7#64, 0#64] } :=
  ⟨List.cons_ne_nil _ _, rfl⟩

theorem witness_ReorderedCommandsGetTheSameResponses :
    List.Perm [0x0_9ABCDEF012345678#65, 0x1_FFFFFFFFFFFFFFFF#65] [0x1_FFFFFFFFFFFFFFFF#65, 0x0_9ABCDEF012345678#65] :=
  List.Perm.swap _ _ _

end Sys2Proof.Tests
end

/-! SUPPORT. The two lookup tables (spec/20_memory.md R41, R45, R49): facts about bit pairs, the masks and the datapath over
any table, and the statements about the tables' contents. -/

namespace Sys2Proof.Machine

/-! Words as numbers in base 4 -/

/-- The base 4 digit `i` of a word is made of its bits `2i` and `2i + 1`. -/
theorem toNat_div_four_pow_mod_four {w : Nat} (x : BitVec w) (i : Nat) :
    x.toNat / 4 ^ i % 4 = (x.getLsbD (2 * i)).toNat + (x.getLsbD (2 * i + 1)).toNat * 2 := by
  have evenBit : (x.getLsbD (2 * i)).toNat = x.toNat / 4 ^ i % 2 := by
    rw [← BitVec.testBit_toNat, Nat.toNat_testBit, Nat.pow_mul]
  have oddBit : (x.getLsbD (2 * i + 1)).toNat = x.toNat / 4 ^ i / 2 % 2 := by
    rw [← BitVec.testBit_toNat, Nat.toNat_testBit, Nat.pow_succ, Nat.pow_mul, Nat.div_div_eq_div_mul]
  omega

/-- The low `n` bit pairs of a word, as a number, by induction on the number of pairs. -/
theorem toNat_mod_four_pow_eq_sum {w : Nat} (x : BitVec w) (n : Nat) :
    x.toNat % 4 ^ n =
      ∑ i ∈ Finset.range n, ((x.getLsbD (2 * i)).toNat * 4 ^ i + (x.getLsbD (2 * i + 1)).toNat * 2 * 4 ^ i) := by
  induction n with
  | zero => simp [Nat.mod_one]
  | succ n ih =>
    rw [Finset.sum_range_succ, ← ih, Nat.mod_pow_succ, toNat_div_four_pow_mod_four]
    ring

/-- A word of `n` bit pairs is the sum of its even bits `x[2i] * 4^i` and its odd bits `x[2i+1] * 2 * 4^i`. -/
theorem toNat_eq_sum_bitPairs {w : Nat} (x : BitVec w) (n : Nat) (width : w = 2 * n) :
    x.toNat =
      ∑ i ∈ Finset.range n, ((x.getLsbD (2 * i)).toNat * 4 ^ i + (x.getLsbD (2 * i + 1)).toNat * 2 * 4 ^ i) := by
  have bound : x.toNat < 4 ^ n := by
    calc x.toNat < 2 ^ w := x.isLt
      _ = 4 ^ n := by rw [width, Nat.pow_mul]
  rw [← toNat_mod_four_pow_eq_sum, Nat.mod_eq_of_lt bound]

/-! The interleave table -/

theorem getLsbD_ilut_even (v : Byte) {i : Nat} (hi : i < 8) : (ilut v).getLsbD (2 * i) = v.getLsbD i := by
  have inEntry : 2 * i < 16 := by omega
  rw [getLsbD_ilut]
  simp [inEntry]

theorem getLsbD_ilut_odd (v : Byte) (i : Nat) : (ilut v).getLsbD (2 * i + 1) = false := by
  have isOdd : (2 * i + 1) % 2 = 1 := by omega
  simp [getLsbD_ilut, isOdd]

/-- R41 as a number: the odd bits of the entry add nothing to the sum over its bit pairs. -/
theorem toNat_ilut (v : Byte) : (ilut v).toNat = ∑ i ∈ Finset.range 8, (v.getLsbD i).toNat * 4 ^ i := by
  rw [toNat_eq_sum_bitPairs (ilut v) 8 rfl]
  apply Finset.sum_congr rfl
  intro i hi
  rw [getLsbD_ilut_even v (Finset.mem_range.mp hi), getLsbD_ilut_odd]
  simp

/-! The masks and the deinterleave table -/

/-- A bit under a mask that is 0 in the index is 0. -/
theorem getLsbD_eq_false_of_and_eq_zero {w : Nat} {v mask : BitVec w} (masked : v &&& mask = 0#w) {i : Nat}
    (inMask : mask.getLsbD i = true) : v.getLsbD i = false := by
  have bit : (v &&& mask).getLsbD i = false := by rw [masked, BitVec.getLsbD_zero]
  simpa [inMask] using bit

/-- R45, first clause: at an index with even bits only the odd bits contribute nothing to the union of R47. -/
theorem getLsbD_dlut_of_evenOnly {v : Byte} (evenOnly : v &&& oddMask = 0#8) (j : Fin 4) :
    (dlut v).getLsbD j = v.getLsbD (2 * j) := by
  have inMask : ∀ j : Fin 4, oddMask.getLsbD (2 * j + 1) = true := by decide
  rw [getLsbD_dlut, getLsbD_eq_false_of_and_eq_zero evenOnly (inMask j)]
  simp

/-- R45, second clause: at an index with odd bits only the even bits contribute nothing to the union of R47. -/
theorem getLsbD_dlut_of_oddOnly {v : Byte} (oddOnly : v &&& evenMask = 0#8) (j : Fin 4) :
    (dlut v).getLsbD j = v.getLsbD (2 * j + 1) := by
  have inMask : ∀ j : Fin 4, evenMask.getLsbD (2 * j) = true := by decide
  rw [getLsbD_dlut, getLsbD_eq_false_of_and_eq_zero oddOnly (inMask j)]
  simp

/-- Indices with even bits only. -/
def evenOnlyIndices : Finset (Fin 256) := Finset.univ.filter fun v => BitVec.ofFin (w := 8) v &&& oddMask = 0#8

/-- Indices with odd bits only. -/
def oddOnlyIndices : Finset (Fin 256) := Finset.univ.filter fun v => BitVec.ofFin (w := 8) v &&& evenMask = 0#8

/-- R45: 16 indices with even bits only and 16 with odd bits only, index 0 counted once. -/
theorem card_evenOnly_union_oddOnly : (evenOnlyIndices ∪ oddOnlyIndices).card = 31 := by
  have evenCount : evenOnlyIndices.card = 16 := by decide
  have oddCount : oddOnlyIndices.card = 16 := by decide
  have shared : evenOnlyIndices ∩ oddOnlyIndices = {0} := by decide
  rw [Finset.card_union, evenCount, oddCount, shared, Finset.card_singleton]

/-! The datapath over any table -/

/-- One result depends on the table and the mask only through the entries read at the masked bytes. -/
theorem deinterleaveHalf_congr {table table' : Byte → Nibble} {mask mask' : Byte}
    (sameReads : ∀ y : Byte, table (y &&& mask) = table' (y &&& mask')) (c : Code) :
    deinterleaveHalf table mask c = deinterleaveHalf table' mask' c := by
  simp only [deinterleaveHalf_terms, sameReads]

/-- R49 for one result: a table with the mask built in, read at the unmasked byte, gives what `dlut` gives under the
mask. -/
theorem deinterleaveHalf_premasked {table : Byte → Nibble} {mask : Byte}
    (premasked : ∀ y : Byte, table y = dlut (y &&& mask)) (c : Code) :
    deinterleaveHalf table 0xFF#8 c = deinterleaveHalf dlut mask c := by
  apply deinterleaveHalf_congr
  intro y
  have unmasked : y &&& 0xFF#8 = y := BitVec.and_allOnes
  rw [unmasked, premasked]

end Sys2Proof.Machine

namespace Sys2Proof.Proofs

open Sys2Proof.Machine

/-- Settles O9: the entry bit by bit, then the sum over its bit pairs. -/
theorem interleaveTableSpreadsItsIndex : Obligations.InterleaveTableSpreadsItsIndex := by
  intro v
  exact ⟨fun i => ⟨getLsbD_ilut_even v i.isLt, getLsbD_ilut_odd v i⟩, toNat_ilut v⟩

/-- Settles O11: one clause of R45 per kind of index, and the count by inclusion and exclusion. -/
theorem deinterleaveTableCollapsesMaskedIndices : Obligations.DeinterleaveTableCollapsesMaskedIndices := by
  refine ⟨fun v evenOnly => getLsbD_dlut_of_evenOnly evenOnly, fun v oddOnly => getLsbD_dlut_of_oddOnly oddOnly, ?_, ?_⟩
  · decide
  · rw [Finset.filter_or]
    exact card_evenOnly_union_oddOnly

/-- Settles O16: each of the two results by the table made for its mask. -/
theorem twoTablesDecodeAsOneDoes : Obligations.TwoTablesDecodeAsOneDoes := by
  intro even odd evenTable oddTable c
  have valueA : deinterleaveHalf even 0xFF#8 c = deinterleaveHalf dlut evenMask c := deinterleaveHalf_premasked evenTable c
  have valueB : deinterleaveHalf odd 0xFF#8 c = deinterleaveHalf dlut oddMask c := deinterleaveHalf_premasked oddTable c
  rw [valueA, valueB]
  rfl

end Sys2Proof.Proofs

/-! SUPPORT. The decoder (spec/30_encoding.md R70 to R77): what a command word decodes to by its bit 64, the masks of the
opcode map, the numerals that decode, and the statements about the legality of the command words. -/

namespace Sys2Proof

/-! The operation and the operands of a decoded word -/

@[simp] theorem Op.op_instr (o : Op) (p : Opnd) : (o.instr p).op = o := by cases o <;> rfl

/-- R71, R76: the operation of the decoded word is the one its bit 64 selects. -/
theorem op_decode (w : Cmd) : (decode w).op = Op.ofBit (w.getLsbD 64) := Op.op_instr (Cmd.op w) (Cmd.opnd w)

/-- A field that lies inside the payload is the field of the command word at the same position. -/
theorem extractLsb'_opnd (w : Cmd) {start len : Nat} (inPayload : start + len ≤ 64) :
    (Cmd.opnd w).extractLsb' start len = w.extractLsb' start len := by
  apply BitVec.eq_of_getLsbD_eq
  intro i hi
  have bitInPayload : start + i < 64 := by omega
  simp [Cmd.opnd, bitInPayload]

theorem decode_of_bit64_clear {w : Cmd} (isClear : w.getLsbD 64 = false) :
    decode w = .interleave (w.extractLsb' 0 32) (w.extractLsb' 32 32) := by
  have low : lowHalf (Cmd.opnd w) = w.extractLsb' 0 32 := extractLsb'_opnd w (by decide)
  have high : highHalf (Cmd.opnd w) = w.extractLsb' 32 32 := extractLsb'_opnd w (by decide)
  rw [decode, Cmd.op, isClear, ← low, ← high]
  rfl

theorem decode_of_bit64_set {w : Cmd} (isSet : w.getLsbD 64 = true) : decode w = .deinterleave (w.extractLsb' 0 64) := by
  rw [decode, Cmd.op, isSet]
  rfl

/-- No word with bit 64 set decodes to an `INTERLEAVE`: it decodes to the other operation. -/
theorem decode_eq_interleave_iff (w : Cmd) :
    decode w = .interleave (w.extractLsb' 0 32) (w.extractLsb' 32 32) ↔ w.getLsbD 64 = false := by
  refine ⟨fun decoded => ?_, decode_of_bit64_clear⟩
  cases bit : w.getLsbD 64 with
  | false => rfl
  | true => exact absurd (decode_of_bit64_set bit ▸ decoded) Instr.noConfusion

/-- No word with bit 64 clear decodes to a `DEINTERLEAVE`: it decodes to the other operation. -/
theorem decode_eq_deinterleave_iff (w : Cmd) :
    decode w = .deinterleave (w.extractLsb' 0 64) ↔ w.getLsbD 64 = true := by
  refine ⟨fun decoded => ?_, decode_of_bit64_set⟩
  cases bit : w.getLsbD 64 with
  | false => exact absurd (decode_of_bit64_clear bit ▸ decoded) Instr.noConfusion
  | true => rfl

/-! The mask of the opcode map -/

/-- The mask of both rows of R76 is the power of two at bit 64. -/
theorem opMask_eq_twoPow : 0x1_0000_0000_0000_0000#65 = BitVec.twoPow 65 64 := by decide

/-- The first row of R76: the masked word is its match, 0. -/
theorem and_opMask_eq_zero_iff (w : Cmd) :
    w &&& 0x1_0000_0000_0000_0000#65 = 0x0_0000_0000_0000_0000#65 ↔ w.getLsbD 64 = false := by
  have maskNonzero : BitVec.twoPow 65 64 ≠ 0#65 := by decide
  rw [opMask_eq_twoPow, BitVec.and_twoPow]
  cases w.getLsbD 64 <;> simp [maskNonzero]

/-- The second row of R76: the masked word is its match, the mask itself. -/
theorem and_opMask_eq_opMask_iff (w : Cmd) :
    w &&& 0x1_0000_0000_0000_0000#65 = 0x1_0000_0000_0000_0000#65 ↔ w.getLsbD 64 = true := by
  have maskNonzero : 0#65 ≠ BitVec.twoPow 65 64 := by decide
  rw [opMask_eq_twoPow, BitVec.and_twoPow]
  cases w.getLsbD 64 <;> simp [maskNonzero]

/-! Numerals and well-formedness -/

theorem decodeNumeral_of_lt {n : Nat} (fits : n < 2 ^ 65) : decodeNumeral n = .ok (decode (BitVec.ofNat 65 n)) :=
  if_pos fits

/-- R77: the numeral of a command word is never rejected. -/
theorem decodeNumeral_toNat (w : Cmd) : decodeNumeral w.toNat = .ok (decode w) := by
  rw [decodeNumeral_of_lt w.isLt, BitVec.ofNat_toNat, BitVec.setWidth_eq]

theorem Instr.wellFormed_eq_true (i : Instr) : i.wellFormed = true := by cases i <;> rfl

/-- R77, R150: an instruction answers with one response, the same in every state. -/
theorem Machine.exec_responds (i : Instr) : ∃ r, ∀ s : Machine.State, Machine.exec i s = .next (s.respond r) := by
  cases i with
  | interleave a b => exact ⟨_, Machine.execInterleave_eq a b⟩
  | deinterleave c => exact ⟨_, Machine.execDeinterleave_eq c⟩

end Sys2Proof

namespace Sys2Proof.Proofs

open Sys2Proof.Machine

/-- Settles O6: a command word fits its numeral, and both operations are total. -/
theorem everyCommandWordIsLegal : Obligations.EveryCommandWordIsLegal := by
  intro w
  obtain ⟨r, responds⟩ := exec_responds (decode w)
  exact ⟨decodeNumeral_toNat w, (decode w).wellFormed_eq_true, op_decode w, fun s => ⟨s.respond r, responds s⟩⟩

/-- Settles O7: each row's mask equation and each row's decoding say the same of bit 64. -/
theorem opcodeMapSelectsByBit64Alone : Obligations.OpcodeMapSelectsByBit64Alone := by
  refine ⟨fun w => ?_, fun w => ?_, fun w w' sameBit => ?_⟩
  · exact (and_opMask_eq_zero_iff w).trans (decode_eq_interleave_iff w).symm
  · exact (and_opMask_eq_opMask_iff w).trans (decode_eq_deinterleave_iff w).symm
  · rw [op_decode, op_decode, sameBit]

end Sys2Proof.Proofs

/-! SUPPORT. The `INTERLEAVE` datapath bit by bit (spec/40_interleave.md R91, R92): what one tap contributes, what the four
taps of an operand contribute together, and the statement that the datapath places the bits as the law says. -/

namespace Sys2Proof.Machine

theorem orAll_append {w : Nat} (terms terms' : List (BitVec w)) :
    orAll (terms ++ terms') = orAll terms ||| orAll terms' := by
  apply BitVec.eq_of_getLsbD_eq
  intro i _
  rw [BitVec.getLsbD_or, getLsbD_orAll, getLsbD_orAll, getLsbD_orAll, List.any_append]

/-- The code is the OR of what the four lanes of each operand contribute, `valueA` from bit 0 on and `valueB` from bit 1
on. -/
theorem interleaveDatapath_eq_or (a b : Value) :
    interleaveDatapath a b =
      orAll ((interleaveLaneTaps a 0).map interleaveTerm) ||| orAll ((interleaveLaneTaps b 1).map interleaveTerm) := by
  rw [interleaveDatapath, interleaveTaps, List.map_append, orAll_append]

/-- What the operand `x`, spread from position `base` on, holds at position `p`: bit `(p - base) / 2` of `x` where
`p - base` is even, 0 elsewhere. `interleaveDatapath_eq_or` spreads `valueA` from 0 and `valueB` from 1. -/
def spreadBit (x : Value) (base p : Nat) : Bool :=
  decide (base ≤ p) && ((p - base) % 2 == 0 && x.getLsbD ((p - base) / 2))

/-- Bit `i` of the operand stands at `base + 2i`. -/
theorem spreadBit_even (x : Value) (base i : Nat) : spreadBit x base (2 * i + base) = x.getLsbD i := by
  simp [spreadBit]

/-- Nothing stands at a position whose parity is not that of `base`. -/
theorem spreadBit_of_parity_ne (x : Value) {base p : Nat} (parity : p % 2 ≠ base % 2) : spreadBit x base p = false := by
  by_cases fromBase : base ≤ p
  · have oddDistance : (p - base) % 2 = 1 := by omega
    simp [spreadBit, oddDistance]
  · simp [spreadBit, fromBase]

/-- Lane `k` reaches the 16 positions of slot `k` alone, and there its tap spreads the bits of the whole operand. -/
theorem getLsbD_interleaveTerm_lane (x : Value) (base k p : Nat) :
    (interleaveTerm ⟨lane x k, 16 * k + base⟩).getLsbD p =
      (decide ((p - base) / 16 = k) && (decide (p < 64) && spreadBit x base p)) := by
  rw [interleaveTerm, getLsbD_place, getLsbD_ilut, getLsbD_lane, spreadBit]
  by_cases fromBase : base ≤ p
  · obtain ⟨q, rfl⟩ := Nat.exists_eq_add_of_le fromBase
    by_cases inSlot : q / 16 = k
    · have afterShift : ¬ base + q < 16 * k + base := by omega
      have inEntry : base + q - (16 * k + base) = q % 16 := by omega
      have inLane : q % 16 / 2 < 8 := by omega
      have operandBit : 8 * k + q % 16 / 2 = q / 2 := by omega
      have sameParity : q % 16 % 2 = q % 2 := by omega
      simp [inSlot, afterShift, inEntry, inLane, operandBit, sameParity, Nat.mod_lt]
    · have outsideEntry : base + q < 16 * k + base ∨ ¬ base + q - (16 * k + base) < 16 := by omega
      rcases outsideEntry with beforeShift | pastEntry
      · simp [inSlot, beforeShift]
      · simp [inSlot, pastEntry]
  · have beforeShift : p < 16 * k + base := by omega
    simp [fromBase, beforeShift]

/-- The four taps of an operand cover the four slots of the code, so together they spread all of its bits. -/
theorem getLsbD_orAll_interleaveLaneTaps (x : Value) (base p : Nat) :
    (orAll ((interleaveLaneTaps x base).map interleaveTerm)).getLsbD p = (decide (p < 64) && spreadBit x base p) := by
  have slotExists : p < 64 → spreadBit x base p = true → (p - base) / 16 < 4 := by omega
  rw [getLsbD_orAll, interleaveLaneTaps, Bool.eq_iff_iff]
  simpa [getLsbD_interleaveTerm_lane] using slotExists

/-- R91: an even position holds a bit of `valueA`, an odd position a bit of `valueB`, and there is no other source. -/
theorem getLsbD_interleaveDatapath (a b : Value) (p : Nat) :
    (interleaveDatapath a b).getLsbD p = (decide (p < 64) && (spreadBit a 0 p || spreadBit b 1 p)) := by
  rw [interleaveDatapath_eq_or, BitVec.getLsbD_or, getLsbD_orAll_interleaveLaneTaps, getLsbD_orAll_interleaveLaneTaps,
    Bool.and_or_distrib_left]

theorem getLsbD_interleaveDatapath_even (a b : Value) {i : Nat} (hi : i < 32) :
    (interleaveDatapath a b).getLsbD (2 * i) = a.getLsbD i := by
  have inCode : 2 * i < 64 := by omega
  have ofA : spreadBit a 0 (2 * i) = a.getLsbD i := spreadBit_even a 0 i
  have notOfB : spreadBit b 1 (2 * i) = false := spreadBit_of_parity_ne b (by omega)
  rw [getLsbD_interleaveDatapath, ofA, notOfB]
  simp [inCode]

theorem getLsbD_interleaveDatapath_odd (a b : Value) {i : Nat} (hi : i < 32) :
    (interleaveDatapath a b).getLsbD (2 * i + 1) = b.getLsbD i := by
  have inCode : 2 * i + 1 < 64 := by omega
  have notOfA : spreadBit a 0 (2 * i + 1) = false := spreadBit_of_parity_ne a (by omega)
  have ofB : spreadBit b 1 (2 * i + 1) = b.getLsbD i := spreadBit_even b 1 i
  rw [getLsbD_interleaveDatapath, notOfA, ofB]
  simp [inCode]

/-- R91 as a number: the 32 bit pairs of the code, each read off its operands. -/
theorem toNat_interleaveDatapath (a b : Value) :
    (interleaveDatapath a b).toNat =
      ∑ i ∈ Finset.range 32, ((a.getLsbD i).toNat * 4 ^ i + (b.getLsbD i).toNat * 2 * 4 ^ i) := by
  rw [toNat_eq_sum_bitPairs (interleaveDatapath a b) 32 rfl]
  apply Finset.sum_congr rfl
  intro i hi
  have inOperand : i < 32 := Finset.mem_range.mp hi
  rw [getLsbD_interleaveDatapath_even a b inOperand, getLsbD_interleaveDatapath_odd a b inOperand]

end Sys2Proof.Machine

namespace Sys2Proof.Proofs

open Sys2Proof.Machine

/-- Settles O17: the code bit by bit, then the sum over its bit pairs. -/
theorem interleaveFollowsTheBitPlacementLaw : Obligations.InterleaveFollowsTheBitPlacementLaw := by
  intro a b
  exact ⟨fun i => ⟨getLsbD_interleaveDatapath_even a b i.isLt, getLsbD_interleaveDatapath_odd a b i.isLt⟩,
    toNat_interleaveDatapath a b⟩

end Sys2Proof.Proofs

/-! SUPPORT. The contracts between the two operations (spec/42_contracts.md R130, R133 to R137): codes compared by their bit
pairs, one byte lane read through a mask, each datapath against its law, and the statements of the family. -/

namespace Sys2Proof.Machine

/-! Codes by their 32 bit pairs -/

/-- Two codes are equal when they agree at the positions of `valueA` and at the positions of `valueB`. -/
theorem code_eq_of_bitPairs {c c' : Code} (even : ∀ i < 32, c.getLsbD (2 * i) = c'.getLsbD (2 * i))
    (odd : ∀ i < 32, c.getLsbD (2 * i + 1) = c'.getLsbD (2 * i + 1)) : c = c' := by
  apply BitVec.eq_of_getLsbD_eq
  intro p hp
  obtain ⟨i, rfl | rfl⟩ := Nat.even_or_odd' p
  · exact even i (by omega)
  · exact odd i (by omega)

/-- R133 read backwards: a code with the bits of `a` at the even positions and those of `b` at the odd ones is theirs. -/
theorem interleaveDatapath_eq_of_bitPairs {a b : Value} {c : Code} (even : ∀ i < 32, c.getLsbD (2 * i) = a.getLsbD i)
    (odd : ∀ i < 32, c.getLsbD (2 * i + 1) = b.getLsbD i) : interleaveDatapath a b = c := by
  apply code_eq_of_bitPairs
  · intro i hi
    rw [getLsbD_interleaveDatapath_even a b hi, even i hi]
  · intro i hi
    rw [getLsbD_interleaveDatapath_odd a b hi, odd i hi]

/-- A word with a single 1 in it. -/
theorem getLsbD_one_shiftLeft {w : Nat} (i j : Nat) : (1#w <<< i).getLsbD j = (decide (i < w) && decide (i = j)) := by
  rw [← BitVec.twoPow_eq, BitVec.getLsbD_twoPow]

/-- The odd-bit mask is 0 at the positions of `valueA` and 1 at those of `valueB`. -/
theorem getLsbD_codeOddMask : ∀ i < 32, (0xAAAAAAAAAAAAAAAA#64).getLsbD (2 * i) = false ∧
    (0xAAAAAAAAAAAAAAAA#64).getLsbD (2 * i + 1) = true := by decide

/-- The even-bit mask is 1 at the positions of `valueA` and 0 at those of `valueB`. -/
theorem getLsbD_codeEvenMask : ∀ i < 32, (0x5555555555555555#64).getLsbD (2 * i) = true ∧
    (0x5555555555555555#64).getLsbD (2 * i + 1) = false := by decide

/-! INTERLEAVE: single bits, masked codes, the law -/

/-- R133: bit `i` of `valueA` alone gives bit `2i` of the code alone. -/
theorem interleaveDatapath_singleBit_zero {i : Nat} (hi : i < 32) :
    interleaveDatapath (1#32 <<< i) 0#32 = 1#64 <<< (2 * i) := by
  have inCode : 2 * i < 64 := by omega
  apply interleaveDatapath_eq_of_bitPairs
  · intro j _
    rw [getLsbD_one_shiftLeft, getLsbD_one_shiftLeft]
    simp [hi, inCode]
  · intro j _
    have otherParity : 2 * i ≠ 2 * j + 1 := by omega
    rw [getLsbD_one_shiftLeft, BitVec.getLsbD_zero]
    simp [otherParity]

/-- R133: bit `i` of `valueB` alone gives bit `2i + 1` of the code alone. -/
theorem interleaveDatapath_zero_singleBit {i : Nat} (hi : i < 32) :
    interleaveDatapath 0#32 (1#32 <<< i) = 1#64 <<< (2 * i + 1) := by
  have inCode : 2 * i + 1 < 64 := by omega
  apply interleaveDatapath_eq_of_bitPairs
  · intro j _
    have otherParity : 2 * i + 1 ≠ 2 * j := by omega
    rw [getLsbD_one_shiftLeft, BitVec.getLsbD_zero]
    simp [otherParity]
  · intro j _
    rw [getLsbD_one_shiftLeft, getLsbD_one_shiftLeft]
    simp [hi, inCode]

/-- R136: under the odd-bit mask nothing of `valueA` is left. -/
theorem interleaveDatapath_and_oddMask (a b : Value) :
    interleaveDatapath a b &&& 0xAAAAAAAAAAAAAAAA#64 = interleaveDatapath 0#32 b := by
  symm
  apply interleaveDatapath_eq_of_bitPairs
  · intro i hi
    rw [BitVec.getLsbD_and, (getLsbD_codeOddMask i hi).1, Bool.and_false, BitVec.getLsbD_zero]
  · intro i hi
    rw [BitVec.getLsbD_and, (getLsbD_codeOddMask i hi).2, Bool.and_true, getLsbD_interleaveDatapath_odd a b hi]

/-- R136: under the even-bit mask nothing of `valueB` is left. -/
theorem interleaveDatapath_and_evenMask (a b : Value) :
    interleaveDatapath a b &&& 0x5555555555555555#64 = interleaveDatapath a 0#32 := by
  symm
  apply interleaveDatapath_eq_of_bitPairs
  · intro i hi
    rw [BitVec.getLsbD_and, (getLsbD_codeEvenMask i hi).1, Bool.and_true, getLsbD_interleaveDatapath_even a b hi]
  · intro i hi
    rw [BitVec.getLsbD_and, (getLsbD_codeEvenMask i hi).2, Bool.and_false, BitVec.getLsbD_zero]

/-- Two words that are the same under a mask differ nowhere under it. -/
theorem xor_and_eq_zero {w : Nat} {x y mask : BitVec w} (same : x &&& mask = y &&& mask) :
    (x ^^^ y) &&& mask = 0#w := by
  have distrib : (x ^^^ y) &&& mask = (x &&& mask) ^^^ (y &&& mask) := by
    apply BitVec.eq_of_getLsbD_eq
    intro i _
    simp only [BitVec.getLsbD_and, BitVec.getLsbD_xor, Bool.and_xor_distrib_right]
  rw [distrib, same, BitVec.xor_self]

/-- R93: the table-driven datapath computes the law. -/
theorem interleaveDatapath_eq_lawInterleave (a b : Value) : interleaveDatapath a b = lawInterleave a b := by
  apply interleaveDatapath_eq_of_bitPairs
  · intro i hi
    have inCode : 2 * i < 64 := by omega
    rw [getLsbD_lawInterleave]
    simp [inCode]
  · intro i hi
    have inCode : 2 * i + 1 < 64 := by omega
    have isOdd : (2 * i + 1) % 2 = 1 := by omega
    have bitIndex : (2 * i + 1) / 2 = i := by omega
    rw [getLsbD_lawInterleave]
    simp [inCode, isOdd, bitIndex]

/-! One byte lane read through a mask, of a code (R112) or of an interleave entry (R137) -/

/-- Through the even mask the entry holds the lane's even bits. -/
theorem getLsbD_dlut_lane_and_evenMask {w : Nat} (x : BitVec w) (k : Nat) (j : Fin 4) :
    (dlut (lane x k &&& evenMask)).getLsbD j = x.getLsbD (8 * k + 2 * j) := by
  have evenOnly : lane x k &&& evenMask &&& oddMask = 0#8 := by
    rw [BitVec.and_assoc, show evenMask &&& oddMask = 0#8 from rfl, BitVec.and_zero]
  have inMask : ∀ j : Fin 4, evenMask.getLsbD (2 * j) = true := by decide
  have inLane : 2 * j.val < 8 := by omega
  rw [getLsbD_dlut_of_evenOnly evenOnly, BitVec.getLsbD_and, inMask, getLsbD_lane]
  simp [inLane]

/-- Through the odd mask the entry holds the lane's odd bits. -/
theorem getLsbD_dlut_lane_and_oddMask {w : Nat} (x : BitVec w) (k : Nat) (j : Fin 4) :
    (dlut (lane x k &&& oddMask)).getLsbD j = x.getLsbD (8 * k + 2 * j + 1) := by
  have oddOnly : lane x k &&& oddMask &&& evenMask = 0#8 := by
    rw [BitVec.and_assoc, show oddMask &&& evenMask = 0#8 from rfl, BitVec.and_zero]
  have inMask : ∀ j : Fin 4, oddMask.getLsbD (2 * j + 1) = true := by decide
  have inLane : 2 * j.val + 1 < 8 := by omega
  rw [getLsbD_dlut_of_oddOnly oddOnly, BitVec.getLsbD_and, inMask, getLsbD_lane]
  simp [inLane, Nat.add_assoc]

/-- R137, even path: lane `k` of an interleave entry gives back nibble `k` of the source byte. -/
theorem dlut_lane_ilut_and_evenMask (v : Byte) {k : Nat} (hk : k < 2) :
    dlut (lane (ilut v) k &&& evenMask) = v.extractLsb' (4 * k) 4 := by
  apply BitVec.eq_of_getLsbD_eq
  intro j hj
  have entryBit : 8 * k + 2 * j = 2 * (4 * k + j) := by omega
  have inByte : 4 * k + j < 8 := by omega
  rw [getLsbD_dlut_lane_and_evenMask (ilut v) k ⟨j, hj⟩, entryBit, getLsbD_ilut_even v inByte]
  simp [hj]

/-- R137, odd path: the shift by one moves the even bits of an entry to the odd ones, so the odd mask reads what the even
mask reads of the entry itself. -/
theorem dlut_lane_ilut_shiftLeft_and_oddMask (v : Byte) {k : Nat} (hk : k < 2) :
    dlut (lane (ilut v <<< 1) k &&& oddMask) = dlut (lane (ilut v) k &&& evenMask) := by
  apply BitVec.eq_of_getLsbD_eq
  intro j hj
  have inEntry : 8 * k + 2 * j + 1 < 16 := by omega
  rw [getLsbD_dlut_lane_and_oddMask (ilut v <<< 1) k ⟨j, hj⟩, getLsbD_dlut_lane_and_evenMask (ilut v) k ⟨j, hj⟩,
    BitVec.getLsbD_shiftLeft]
  simp [inEntry]

/-! DEINTERLEAVE: the datapath bit by bit, the law -/

/-- The tap of byte lane `k` reaches the four positions of nibble `k` alone. -/
theorem getLsbD_deinterleaveTerm (table : Byte → Nibble) (index : Byte) {k p : Nat} (hp : p < 32) :
    (deinterleaveTerm table ⟨index, 4 * k⟩).getLsbD p = (decide (p / 4 = k) && (table index).getLsbD (p % 4)) := by
  rw [deinterleaveTerm, getLsbD_place]
  by_cases inNibble : p / 4 = k
  · have afterShift : ¬ p < 4 * k := by omega
    have inEntry : p - 4 * k = p % 4 := by omega
    simp [hp, inNibble, afterShift, inEntry]
  · have outsideEntry : p < 4 * k ∨ 4 ≤ p - 4 * k := by omega
    rcases outsideEntry with beforeShift | pastEntry
    · simp [inNibble, beforeShift]
    · simp [inNibble, BitVec.getLsbD_of_ge _ _ pastEntry]

/-- R112, R116: bit `p` of a result comes from the one entry read at byte lane `p / 4` of the code. -/
theorem getLsbD_deinterleaveHalf (table : Byte → Nibble) (mask : Byte) (c : Code) {p : Nat} (hp : p < 32) :
    (deinterleaveHalf table mask c).getLsbD p = (table (lane c (p / 4) &&& mask)).getLsbD (p % 4) := by
  have laneExists : p / 4 < 8 := by omega
  rw [deinterleaveHalf, deinterleaveTaps, getLsbD_orAll, Bool.eq_iff_iff]
  simp [getLsbD_deinterleaveTerm table _ hp, laneExists]

/-- R111: bit `i` of `valueA` is bit `2i` of the code. -/
theorem getLsbD_deinterleaveDatapath_fst (c : Code) {i : Nat} (hi : i < 32) :
    (deinterleaveDatapath c).1.getLsbD i = c.getLsbD (2 * i) := by
  have inEntry : i % 4 < 4 := Nat.mod_lt i (by decide)
  have codeBit : 8 * (i / 4) + 2 * (i % 4) = 2 * i := by omega
  calc (deinterleaveDatapath c).1.getLsbD i
      _ = (dlut (lane c (i / 4) &&& evenMask)).getLsbD (i % 4) := getLsbD_deinterleaveHalf dlut evenMask c hi
      _ = c.getLsbD (8 * (i / 4) + 2 * (i % 4)) := getLsbD_dlut_lane_and_evenMask c (i / 4) ⟨i % 4, inEntry⟩
      _ = c.getLsbD (2 * i) := by rw [codeBit]

/-- R111: bit `i` of `valueB` is bit `2i + 1` of the code. -/
theorem getLsbD_deinterleaveDatapath_snd (c : Code) {i : Nat} (hi : i < 32) :
    (deinterleaveDatapath c).2.getLsbD i = c.getLsbD (2 * i + 1) := by
  have inEntry : i % 4 < 4 := Nat.mod_lt i (by decide)
  have codeBit : 8 * (i / 4) + 2 * (i % 4) + 1 = 2 * i + 1 := by omega
  calc (deinterleaveDatapath c).2.getLsbD i
      _ = (dlut (lane c (i / 4) &&& oddMask)).getLsbD (i % 4) := getLsbD_deinterleaveHalf dlut oddMask c hi
      _ = c.getLsbD (8 * (i / 4) + 2 * (i % 4) + 1) := getLsbD_dlut_lane_and_oddMask c (i / 4) ⟨i % 4, inEntry⟩
      _ = c.getLsbD (2 * i + 1) := by rw [codeBit]

/-! The round trip, of the datapaths and of `Exec` -/

/-- R130: each value is read back from the positions it was put at. -/
theorem deinterleaveDatapath_interleaveDatapath (a b : Value) : deinterleaveDatapath (interleaveDatapath a b) = (a, b) := by
  apply Prod.ext
  · apply BitVec.eq_of_getLsbD_eq
    intro i hi
    rw [getLsbD_deinterleaveDatapath_fst _ hi, getLsbD_interleaveDatapath_even a b hi]
  · apply BitVec.eq_of_getLsbD_eq
    intro i hi
    rw [getLsbD_deinterleaveDatapath_snd _ hi, getLsbD_interleaveDatapath_odd a b hi]

/-- R113: the table-driven datapath computes the law. -/
theorem deinterleaveDatapath_eq_lawDeinterleave (c : Code) : deinterleaveDatapath c = lawDeinterleave c := by
  apply Prod.ext
  · apply BitVec.eq_of_getLsbD_eq
    intro i hi
    rw [getLsbD_deinterleaveDatapath_fst c hi, getLsbD_lawDeinterleave_fst, decide_eq_true hi, Bool.true_and]
  · apply BitVec.eq_of_getLsbD_eq
    intro i hi
    rw [getLsbD_deinterleaveDatapath_snd c hi, getLsbD_lawDeinterleave_snd, decide_eq_true hi, Bool.true_and]

/-- The halves of a payload, packed again, are the payload (R72). -/
theorem packPair_lowHalf_highHalf (w : BitVec 64) : packPair (lowHalf w) (highHalf w) = w :=
  BitVec.extractLsb'_append_extractLsb' (w := 32) (len := 32)

/-- `Exec` of an `INTERLEAVE` is its datapath on the two halves of the payload (10_state.md R27). -/
theorem transact_packCmd_interleave (p : Opnd) :
    transact (packCmd .interleave p) = interleaveDatapath (lowHalf p) (highHalf p) := by
  have bit64 : (packCmd .interleave p).getLsbD 64 = false := by
    rw [getLsbD_packCmd, if_neg (by decide)]
    decide
  have payload : Cmd.opnd (packCmd .interleave p) = p := Cmd.opnd_packCmd _ p
  rw [transact, if_pos bit64, interleaveDatapath_eq_lawInterleave, ← extractLsb'_opnd _ (by decide),
    ← extractLsb'_opnd _ (by decide), payload, lowHalf, highHalf]

/-- `Exec` of a `DEINTERLEAVE` is its datapath on the whole payload (10_state.md R27). -/
theorem transact_packCmd_deinterleave (p : Opnd) :
    transact (packCmd .deinterleave p) = packPair (deinterleaveDatapath p).1 (deinterleaveDatapath p).2 := by
  have bit64 : ¬ (packCmd .deinterleave p).getLsbD 64 = false := by
    rw [getLsbD_packCmd, if_neg (by decide)]
    decide
  have payload : (packCmd .deinterleave p).extractLsb' 0 64 = p := Cmd.opnd_packCmd _ p
  rw [transact, if_neg bit64, payload, deinterleaveDatapath_eq_lawDeinterleave, packPair]

/-! Zero and all ones -/

theorem interleaveDatapath_zero_zero : interleaveDatapath 0#32 0#32 = 0#64 := by
  apply interleaveDatapath_eq_of_bitPairs <;> simp

theorem interleaveDatapath_allOnes_allOnes :
    interleaveDatapath (BitVec.allOnes 32) (BitVec.allOnes 32) = BitVec.allOnes 64 := by
  apply interleaveDatapath_eq_of_bitPairs
  · intro i hi
    have inCode : 2 * i < 64 := by omega
    rw [BitVec.getLsbD_allOnes, BitVec.getLsbD_allOnes]
    simp [hi, inCode]
  · intro i hi
    have inCode : 2 * i + 1 < 64 := by omega
    rw [BitVec.getLsbD_allOnes, BitVec.getLsbD_allOnes]
    simp [hi, inCode]

end Sys2Proof.Machine

namespace Sys2Proof.Proofs

open Sys2Proof.Machine

/-- Settles O12: both bytes of the entry on the even path, then the odd path brought back to it. -/
theorem tablesComposeToTheSourceByte : Obligations.TablesComposeToTheSourceByte := by
  intro v
  have even (k : Nat) (hk : k < 2) : dlut (lane (ilut v) k &&& evenMask) = v.extractLsb' (4 * k) 4 :=
    dlut_lane_ilut_and_evenMask v hk
  have odd (k : Nat) (hk : k < 2) : dlut (lane (ilut v <<< 1) k &&& oddMask) = v.extractLsb' (4 * k) 4 :=
    (dlut_lane_ilut_shiftLeft_and_oddMask v hk).trans (even k hk)
  exact ⟨even 0 (by decide), even 1 (by decide), odd 0 (by decide), odd 1 (by decide)⟩

/-- Settles O23: the code bit by bit, and the codes of the single-bit operands. -/
theorem singleBitOperandsGoToSingleBits : Obligations.SingleBitOperandsGoToSingleBits := by
  refine ⟨fun a b i => ?_, fun i => ?_⟩
  · exact ⟨getLsbD_interleaveDatapath_even a b i.isLt, getLsbD_interleaveDatapath_odd a b i.isLt⟩
  · exact ⟨interleaveDatapath_singleBit_zero i.isLt, interleaveDatapath_zero_singleBit i.isLt⟩

/-- Settles O24: under a mask one operand is gone, so a change of it shows nowhere under that mask. -/
theorem operandsAreIndependent : Obligations.OperandsAreIndependent := by
  refine ⟨interleaveDatapath_and_oddMask, interleaveDatapath_and_evenMask, fun a a' b => ?_, fun a b b' => ?_, ?_, ?_⟩
  · apply xor_and_eq_zero
    rw [interleaveDatapath_and_oddMask, interleaveDatapath_and_oddMask]
  · apply xor_and_eq_zero
    rw [interleaveDatapath_and_evenMask, interleaveDatapath_and_evenMask]
  · exact interleaveDatapath_singleBit_zero (i := 0) (by decide)
  · exact interleaveDatapath_zero_singleBit (i := 0) (by decide)

/-- Settles O30: the round trip of the datapaths, then of `Exec`, whose two commands are the two datapaths. -/
theorem roundTripReturnsTheOperands : Obligations.RoundTripReturnsTheOperands := by
  refine ⟨deinterleaveDatapath_interleaveDatapath, fun w => ?_⟩
  rw [transact_packCmd_interleave, transact_packCmd_deinterleave, deinterleaveDatapath_interleaveDatapath]
  exact packPair_lowHalf_highHalf w

/-- Settles O34: the two codes, and the way back by the round trip. -/
theorem zeroAndAllOnesAreFixed : Obligations.ZeroAndAllOnesAreFixed := by
  have zero := interleaveDatapath_zero_zero
  have ones : interleaveDatapath 0xFFFFFFFF#32 0xFFFFFFFF#32 = 0xFFFFFFFFFFFFFFFF#64 := interleaveDatapath_allOnes_allOnes
  refine ⟨zero, ?_, ones, ?_⟩
  · rw [← zero, deinterleaveDatapath_interleaveDatapath]
  · rw [← ones, deinterleaveDatapath_interleaveDatapath]

end Sys2Proof.Proofs

/-! SUPPORT. Widening (spec/70_reset_and_hazards.md R174): a lane and a placed entry as unsigned numbers, and the statement
that no sign bit is propagated. -/

namespace Sys2Proof.Machine

/-- A byte lane as a number: shift the lane down, keep eight bits. -/
theorem toNat_lane {w : Nat} (x : BitVec w) (k : Nat) : (lane x k).toNat = x.toNat / 2 ^ (8 * k) % 256 := by
  rw [lane, BitVec.extractLsb'_toNat, Nat.shiftRight_eq_div_pow]

/-- An entry of `m'` significant bits, shifted by no more than the width leaves above them, is only multiplied: the
accumulator loses no bit of it. -/
theorem toNat_place {m n m' amount : Nat} {entry : BitVec m} (significant : entry.toNat < 2 ^ m') (fits : m' + amount ≤ n) :
    (place n entry amount).toNat = entry.toNat * 2 ^ amount := by
  have entryFits : entry.toNat < 2 ^ n :=
    significant.trans_le (Nat.pow_le_pow_right (by decide) (Nat.le_of_add_right_le fits))
  have productFits : entry.toNat * 2 ^ amount < 2 ^ n := by
    calc entry.toNat * 2 ^ amount
        _ < 2 ^ m' * 2 ^ amount := Nat.mul_lt_mul_of_pos_right significant (Nat.two_pow_pos amount)
        _ = 2 ^ (m' + amount) := (Nat.pow_add 2 m' amount).symm
        _ ≤ 2 ^ n := Nat.pow_le_pow_right (by decide) fits
  rw [place, BitVec.toNat_shiftLeft, BitVec.zeroExtend, BitVec.toNat_setWidth, Nat.mod_eq_of_lt entryFits,
    Nat.shiftLeft_eq, Nat.mod_eq_of_lt productFits]

/-- Bit 15 of an interleave entry is an odd bit, hence 0 (20_memory.md R41): its shift by 49 still fits in 64 bits. -/
theorem toNat_ilut_lt (v : Byte) : (ilut v).toNat < 2 ^ 15 := by
  have topBit : (ilut v).msb = false := by
    rw [BitVec.msb_eq_getLsbD_last]
    exact getLsbD_ilut_odd v 7
  exact BitVec.toNat_lt_of_msb_false topBit

end Sys2Proof.Machine

namespace Sys2Proof.Proofs

open Sys2Proof.Machine

/-- Settles O40: lanes of either width by one fact; an interleave entry has 15 significant bits and a deinterleave entry 4,
so every shift of a datapath stays inside its accumulator. -/
theorem everyWideningIsAZeroExtension : Obligations.EveryWideningIsAZeroExtension := by
  refine ⟨fun x k => toNat_lane x k, fun c k => toNat_lane c k, fun v k => ⟨?_, ?_⟩, fun v k => ?_⟩
  · exact toNat_place (toNat_ilut_lt v) (by omega)
  · exact toNat_place (toNat_ilut_lt v) (by omega)
  · exact toNat_place (dlut v).isLt (by omega)

end Sys2Proof.Proofs

/-! SUPPORT. The command format (spec/30_encoding.md R70 to R82): the packings, the round trip of the decoder and the encoder,
numerals and script lines, and the statements about them. -/

namespace Sys2Proof

/-! The round trip -/

/-- R72, R75: what an operation cuts from its payload, packed again, is the payload. -/
theorem Op.opnd_instr (o : Op) (p : Opnd) : (o.instr p).opnd = p := by
  cases o with
  | interleave => exact Machine.packPair_lowHalf_highHalf p
  | deinterleave => rfl

/-- R72: the operation's cut reads back what the encoder wrote. -/
theorem Instr.instr_opnd (i : Instr) : i.op.instr i.opnd = i := by
  cases i with
  | interleave a b =>
    show Instr.interleave (lowHalf (packPair a b)) (highHalf (packPair a b)) = .interleave a b
    rw [lowHalf_packPair, highHalf_packPair]
  | deinterleave c => rfl

theorem Op.toBit_ofBit (b : Bool) : (Op.ofBit b).toBit = b := by cases b <;> rfl

/-- R70: bit 64 and the 64 bits below it are the whole command word. -/
theorem packCmd_op_opnd (w : Cmd) : packCmd (Cmd.op w) (Cmd.opnd w) = w := by
  apply BitVec.eq_of_getLsbD_eq
  intro i hi
  rw [getLsbD_packCmd, Cmd.op, Op.toBit_ofBit]
  by_cases inPayload : i < 64
  · simp [Cmd.opnd, inPayload]
  · obtain rfl : i = 64 := by omega
    simp

theorem decode_packCmd (o : Op) (p : Opnd) : decode (packCmd o p) = o.instr p := by
  rw [decode, Cmd.op_packCmd, Cmd.opnd_packCmd]

/-- R82: decoding undoes encoding. -/
theorem decode_encode (i : Instr) : decode (encode i) = i := by
  rw [encode, decode_packCmd, Instr.instr_opnd]

/-- R82: encoding undoes decoding. -/
theorem encode_decode (w : Cmd) : encode (decode w) = w := by
  rw [encode, decode, Op.op_instr, Op.opnd_instr, packCmd_op_opnd]

/-- R82: `Decode` as that rule writes it. -/
theorem decode_eq_ite (w : Cmd) :
    decode w =
      if w.getLsbD 64 = false then .interleave (w.extractLsb' 0 32) (w.extractLsb' 32 32)
      else .deinterleave (w.extractLsb' 0 64) := by
  cases bit : w.getLsbD 64 with
  | false => exact decode_of_bit64_clear bit
  | true => exact decode_of_bit64_set bit

/-! Numerals -/

theorem decodeNumeral_of_le {n : Nat} (wide : 2 ^ 65 ≤ n) : decodeNumeral n = .error .widerThanCommand :=
  if_neg (Nat.not_lt.mpr wide)

/-- A command word needs 65 bits, so the 72 bits of a table word keep it whole. -/
theorem toNat_mod_two_pow_72 (w : Cmd) : w.toNat % 2 ^ 72 = w.toNat :=
  Nat.mod_eq_of_lt (w.isLt.trans (Nat.pow_lt_pow_right (by decide) (by decide)))

theorem decodeTableWord_toNat (w : Cmd) : decodeTableWord 72 w.toNat = some (decode w) := by
  rw [decodeTableWord, toNat_mod_two_pow_72, decodeNumeral_toNat]
  rfl

/-- The command that a table word places is the word of its number. -/
theorem Machine.withFetchWord_toNat (s : Machine.State) (w : Cmd) :
    s.withFetchWord 72 w.toNat = s.presentNext w := by
  rw [Machine.State.withFetchWord, toNat_mod_two_pow_72, BitVec.ofNat_toNat, BitVec.setWidth_eq]

/-! Script lines -/

theorem literalFits_toNat {w : Nat} (x : BitVec w) : literalFits w x.toNat = true := decide_eq_true x.isLt

/-- R80: with the right number of literals it only matters that each fits. -/
theorem Op.acceptsLiterals_interleave_pair (a b : Nat) :
    Op.interleave.acceptsLiterals [a, b] = (literalFits 32 a && literalFits 32 b) := by
  simp [Op.acceptsLiterals, Op.operandWidths]

theorem Op.acceptsLiterals_deinterleave_single (c : Nat) : Op.deinterleave.acceptsLiterals [c] = literalFits 64 c := by
  simp [Op.acceptsLiterals, Op.operandWidths]

theorem Op.acceptsLiterals_of_length_ne (o : Op) {ns : List Nat} (wrongCount : ns.length ≠ o.operandWidths.length) :
    o.acceptsLiterals ns = false := by
  rw [Op.acceptsLiterals, beq_eq_false_iff_ne.mpr wrongCount, Bool.false_and]

namespace Machine

/-- A checked value is there exactly when its check passes. -/
theorem exists_checked_eq_ok_iff {ε α : Type} (check : Bool) (value : α) (error : ε) :
    (∃ x, (if check then Except.ok value else Except.error error) = .ok x) ↔ check = true := by
  cases check <;> simp

/-- R80: a line is a command exactly when its operation accepts its literals; by the operation, then by how many literals the
line gives. -/
theorem assemble_ok_iff (l : ScriptLine) :
    (∃ i, assemble l = .ok i) ↔ (opOfName l.name).acceptsLiterals l.operands = true := by
  obtain ⟨name, ns⟩ := l
  simp only [assemble]
  cases opOfName name with
  | interleave =>
    match ns with
    | [a, b] =>
      rw [Op.acceptsLiterals_interleave_pair]
      exact exists_checked_eq_ok_iff _ _ _
    | [] | [_] | _ :: _ :: _ :: _ => simp [Op.acceptsLiterals_of_length_ne, Op.operandWidths]
  | deinterleave =>
    match ns with
    | [c] =>
      rw [Op.acceptsLiterals_deinterleave_single]
      exact exists_checked_eq_ok_iff _ _ _
    | [] | _ :: _ :: _ => simp [Op.acceptsLiterals_of_length_ne, Op.operandWidths]

/-- R80: `valueA` is written before `valueB`. -/
theorem assemble_interleave (a b : Value) :
    assemble ⟨.mnemonicInterleave, [a.toNat, b.toNat]⟩ = .ok (.interleave a b) := by
  simp [assemble, opOfName, literalFits_toNat]

theorem assemble_deinterleave (c : Code) : assemble ⟨.mnemonicDeinterleave, [c.toNat]⟩ = .ok (.deinterleave c) := by
  simp [assemble, opOfName, literalFits_toNat]

/-- R81: a line means the same under every name of its operation. -/
theorem assemble_congr_name {name name' : OpName} (sameOp : opOfName name = opOfName name') (ns : List Nat) :
    assemble ⟨name, ns⟩ = assemble ⟨name', ns⟩ := by
  simp only [assemble, sameOp]

end Machine
end Sys2Proof

namespace Sys2Proof.Proofs

open Sys2Proof.Machine

/-- Settles O5: the two functions in the words of the rule, then the round trip both ways. -/
theorem decodeAndEncodeAreInverse : Obligations.DecodeAndEncodeAreInverse := by
  refine ⟨decode_eq_ite, fun a b => ?_, fun c => rfl, decode_encode, encode_decode⟩
  exact (BitVec.append_assoc (x₁ := 0#1) (x₂ := b) (x₃ := a)).symm

/-- Settles O3: 72 bits hold a command word whole. -/
theorem fetchedWordIsServedNext : Obligations.FetchedWordIsServedNext := by
  refine fun s w => ⟨decodeTableWord_toNat w, ?_⟩
  rw [withFetchWord_toNat]
  rfl

/-- Settles O4: five words, decoded. -/
theorem sampleWordsDecode : Obligations.SampleWordsDecode := by
  refine ⟨?_, ?_, ?_, ?_, ?_⟩ <;> decide

/-- Settles O8: the two branches of the numeral decoder. -/
theorem wideNumeralsAreRejectedByName : Obligations.WideNumeralsAreRejectedByName :=
  fun _ => ⟨decodeNumeral_of_le, decodeNumeral_of_lt⟩

/-- Settles O52: which lines assemble, the order of the operands, and the names of one operation. -/
theorem scriptLinesAssembleExactlyWhenTheyFit : Obligations.ScriptLinesAssembleExactlyWhenTheyFit := by
  refine ⟨assemble_ok_iff, assemble_interleave, assemble_deinterleave, fun ns => ⟨?_, ?_, ?_, ?_⟩⟩ <;>
    exact assemble_congr_name rfl ns

end Sys2Proof.Proofs

/-! SUPPORT. The machine against the transaction function `Exec` (spec/10_state.md R27): what an instruction, a step and a run
answer, said once with `transact`, and the statements about steps, runs and responses. -/

namespace Sys2Proof.Machine

/-! What an instruction and a step answer -/

/-- R20: a state is the host's two lists and nothing else. -/
theorem State.eq_of_lists {s t : State} (pending : s.pending = t.pending) (responses : s.responses = t.responses) : s = t := by
  obtain ⟨⟨_, _⟩, _⟩ := s
  obtain ⟨⟨_, _⟩, _⟩ := t
  cases pending
  cases responses
  rfl

theorem exec_interleave_eq_law (a b : Value) (s : State) :
    exec (.interleave a b) s = .next (s.respond (lawInterleave a b)) := by
  rw [← interleaveDatapath_eq_lawInterleave]
  exact execInterleave_eq a b s

theorem exec_deinterleave_eq_law (c : Code) (s : State) :
    exec (.deinterleave c) s = .next (s.respond (packPair (lawDeinterleave c).1 (lawDeinterleave c).2)) := by
  rw [← deinterleaveDatapath_eq_lawDeinterleave]
  exact execDeinterleave_eq c s

/-- R27: the decoded command word is answered with `Exec` of the word. -/
theorem exec_decode (w : Cmd) (s : State) : exec (decode w) s = .next (s.respond (transact w)) := by
  cases bit : w.getLsbD 64 with
  | false => rw [decode_of_bit64_clear bit, exec_interleave_eq_law, transact, if_pos bit]
  | true =>
    have notClear : ¬ w.getLsbD 64 = false := by simp [bit]
    rw [decode_of_bit64_set bit, exec_deinterleave_eq_law, transact, if_neg notClear, packPair]

/-- Every state answers: with itself where nothing is pending, else with the first command taken and `Exec` of it
delivered. -/
theorem step_answers_cases (s : State) :
    (s.pending = [] ∧ step s = .next s) ∨
      ∃ w rest, s.pending = w :: rest ∧
        step s = .next { pending := rest, responses := s.responses ++ [transact w] } := by
  rcases s.takeCommand_cases with ⟨none, taken⟩ | ⟨w, rest, first, taken⟩
  · exact .inl ⟨none, by rw [step, taken]⟩
  · exact .inr ⟨w, rest, first, by rw [step, taken]; exact exec_decode w _⟩

/-- R27: a step takes the next command and delivers `Exec` of it. -/
theorem step_pending_cons (w : Cmd) (rest : List Cmd) (rs : List Rsp) :
    step { pending := w :: rest, responses := rs } = .next { pending := rest, responses := rs ++ [transact w] } :=
  exec_decode w _

/-- A next state is the only answer of a step (60_exceptions.md R150). -/
theorem step_answers (s : State) : ∃ t, step s = .next t := by
  rcases step_answers_cases s with ⟨_, answer⟩ | ⟨_, _, _, answer⟩
  · exact ⟨_, answer⟩
  · exact ⟨_, answer⟩

/-- R27, R28: a step moves `Exec` of the first pending command to the end of the responses, and an idle one moves nothing. -/
theorem account_of_step {s t : State} (stepped : step s = .next t) : Safety.account t = Safety.account s := by
  rcases step_answers_cases s with ⟨_, answer⟩ | ⟨w, rest, first, answer⟩
  · obtain rfl : s = t := Host.Outcome.next.inj (answer.symm.trans stepped)
    rfl
  · obtain rfl := Host.Outcome.next.inj (answer.symm.trans stepped)
    calc s.responses ++ [transact w] ++ rest.map transact
        _ = s.responses ++ (w :: rest).map transact := by rw [List.map_cons, ← List.append_cons]
        _ = Safety.account s := by rw [Safety.account, first]

/-! Runs -/

theorem run_succ_of_step (M : Host.Core) (k : Nat) {s t : M.State} (stepped : M.step s = .next t) :
    M.run (k + 1) s = M.run k t := by
  simp only [Host.Core.run, stepped]

/-- As many steps as there are commands in front answer each of them with `Exec`, in order; by induction on the commands. -/
theorem run_answers_pending (cmds later : List Cmd) (rs : List Rsp) :
    Sys2Proof.core.run cmds.length { pending := cmds ++ later, responses := rs } =
      .next { pending := later, responses := rs ++ cmds.map transact } := by
  induction cmds generalizing rs with
  | nil => simp [Host.Core.run]
  | cons w cmds ih =>
    have first : Sys2Proof.core.step { pending := w :: cmds ++ later, responses := rs } =
        .next { pending := cmds ++ later, responses := rs ++ [transact w] } := step_pending_cons w (cmds ++ later) rs
    rw [List.length_cons, run_succ_of_step _ _ first, List.map_cons, List.append_cons rs _ (cmds.map transact)]
    exact ih (rs ++ [transact w])

/-- With nothing behind the commands the run ends drained. -/
theorem run_answers_all (cmds : List Cmd) (rs : List Rsp) :
    Sys2Proof.core.run cmds.length { pending := cmds, responses := rs } =
      .next { pending := [], responses := rs ++ cmds.map transact } := by
  have answered := run_answers_pending cmds [] rs
  rwa [List.append_nil] at answered

/-! `Exec` of the commands that ports carry (30_encoding.md R79) -/

theorem transact_interleave_packPair (a b : Value) :
    transact (packCmd .interleave (packPair a b)) = lawInterleave a b := by
  rw [transact_packCmd_interleave, lowHalf_packPair, highHalf_packPair, interleaveDatapath_eq_lawInterleave]

theorem transact_deinterleave (c : Code) :
    transact (packCmd .deinterleave c) = packPair (lawDeinterleave c).1 (lawDeinterleave c).2 := by
  rw [transact_packCmd_deinterleave, deinterleaveDatapath_eq_lawDeinterleave]

end Sys2Proof.Machine

namespace Sys2Proof.Proofs

open Sys2Proof.Machine Sys2Proof.Safety

/-- Settles O43: the account of the next state is that of the state before. -/
theorem everyStepKeepsTheAccount : Obligations.EveryStepKeepsTheAccount :=
  fun _ _ _ accounted stepped => (account_of_step stepped).trans accounted

/-- Settles O19: the datapath computes the law. -/
theorem interleaveCompletesWithTheCode : Obligations.InterleaveCompletesWithTheCode := exec_interleave_eq_law

/-- Settles O27: the datapath computes the law, and the response is the packed pair. -/
theorem deinterleaveCompletesWithThePair : Obligations.DeinterleaveCompletesWithThePair := exec_deinterleave_eq_law

/-- Settles O32: each transaction delivers `Exec` of its command, and `Exec` undoes itself (R130). -/
theorem twoTransactionsRestoreThePayload : Obligations.TwoTransactionsRestoreThePayload := by
  intro p rs
  have restored : transact (packCmd .deinterleave (transact (packCmd .interleave p))) = p := roundTripReturnsTheOperands.2 p
  refine ⟨transact (packCmd .interleave p), step_pending_cons _ [] rs, ?_⟩
  rw [step_pending_cons, restored, List.append_assoc, List.singleton_append]

/-- Settles O41: what a step with a command next answers. -/
theorem stepRefinesTheTransactionFunction : Obligations.StepRefinesTheTransactionFunction := step_pending_cons

/-- Settles O42: by the induction over the commands. -/
theorem runAnswersEveryPendingCommand : Obligations.RunAnswersEveryPendingCommand := run_answers_pending

/-- Settles O49: the run delivers `Exec` command by command, and picking out one requester commutes with that. -/
theorem concurrentRequestersGetTheirOwnResponses : Obligations.ConcurrentRequestersGetTheirOwnResponses := by
  intro tagged rs
  have answered := run_answers_all (tagged.map Prod.snd) rs
  rw [List.length_map, List.map_map] at answered
  refine ⟨tagged.map (transact ∘ Prod.snd), List.length_map _, answered, fun requester => ?_⟩
  rw [← List.map_prod_left_eq_zip, List.filter_map, List.map_map]
  rfl

/-- Settles O50: each command stands beside its own `Exec`, wherever it stands. -/
theorem reorderedCommandsGetTheSameResponses : Obligations.ReorderedCommandsGetTheSameResponses := by
  intro cmds cmds' rs rs' permuted
  refine ⟨cmds.map transact, cmds'.map transact, run_answers_all cmds rs, run_answers_all cmds' rs', List.length_map _,
    List.length_map _, ?_⟩
  rw [← List.map_prod_left_eq_zip, ← List.map_prod_left_eq_zip]
  exact permuted.map _

/-- Settles O51: the machine delivers `Exec` of the packed command; the named outputs of either operation read its law. -/
theorem namedPortsCarryTheSameTransactions : Obligations.NamedPortsCarryTheSameTransactions := by
  intro p rest rs
  refine ⟨transact (portCmd p), step_pending_cons _ rest rs, ?_⟩
  obtain ⟨op, a, b, c⟩ := p
  cases op with
  | interleave => exact congrArg PortResult.codeOut (transact_interleave_packPair a b)
  | deinterleave =>
    show PortResult.valuesOut (lowHalf (transact (packCmd .deinterleave c))) (highHalf (transact (packCmd .deinterleave c))) = _
    rw [transact_deinterleave, lowHalf_packPair, highHalf_packPair]

/-- Settles O1: taking the first command leaves the rest. -/
theorem stepRunsTheDecodedCommand : Obligations.StepRunsTheDecodedCommand := fun _ _ _ => rfl

/-- Settles O2: there is no command to take. -/
theorem stepWithNothingPendingIsIdle : Obligations.StepWithNothingPendingIsIdle := fun _ => rfl

/-- Settles O44: both lists are empty. -/
theorem resetAccountsForNothing : Obligations.ResetAccountsForNothing := ⟨rfl, rfl, rfl⟩

/-- Settles O45: every instruction responds, and a next state is the only answer of a step. -/
theorem noCommandFaultsOrIsRefused : Obligations.NoCommandFaultsOrIsRefused := by
  refine ⟨⟨fun f => nomatch f⟩, fun i s => ?_, fun s f faulted => ?_, fun s r refused => ?_⟩
  · obtain ⟨r, responds⟩ := exec_responds i
    exact ⟨r, responds s⟩
  · obtain ⟨t, answer⟩ := step_answers s
    cases answer.symm.trans faulted
  · obtain ⟨t, answer⟩ := step_answers s
    cases answer.symm.trans refused

/-- Settles O46: the one response is `Exec` of the command. -/
theorem responseIsIndependentOfHistory : Obligations.ResponseIsIndependentOfHistory := by
  refine fun w => ⟨transact w, step_pending_cons w, ?_⟩
  rw [withFetchWord_toNat]
  exact step_pending_cons w [] []

/-- Settles O47: the idle step and the serving step. -/
theorem stepChangesOnlyTheServedTransaction : Obligations.StepChangesOnlyTheServedTransaction := by
  refine fun s => ⟨step_answers s, fun t stepped => ?_⟩
  rcases step_answers_cases s with ⟨none, answer⟩ | ⟨w, rest, first, answer⟩
  · obtain rfl : s = t := Host.Outcome.next.inj (answer.symm.trans stepped)
    exact ⟨by rw [none, List.tail_nil], [], by simp [none]⟩
  · obtain rfl := Host.Outcome.next.inj (answer.symm.trans stepped)
    exact ⟨by rw [first, List.tail_cons], [transact w], by simp [first]⟩

/-- Settles O48: the command a step serves is the first one, with or without one more behind. -/
theorem laterCommandsAlterNoResponse : Obligations.LaterCommandsAlterNoResponse := by
  intro s t w busy stepped
  rcases step_answers_cases s with ⟨none, _⟩ | ⟨w', rest, first, answer⟩
  · exact absurd none busy
  · obtain rfl := Host.Outcome.next.inj (answer.symm.trans stepped)
    have submitted : s.submit w = { pending := w' :: (rest ++ [w]), responses := s.responses } :=
      State.eq_of_lists (by simp [first]) rfl
    rw [submitted, step_pending_cons]
    rfl

/-- Settles O53: the unit type has one value, and the two lists make a state. -/
theorem blockStateIsTheUnitType : Obligations.BlockStateIsTheUnitType :=
  ⟨fun _ _ => rfl, fun _ _ => State.eq_of_lists, fun _ _ _ => rfl, rfl⟩

end Sys2Proof.Proofs

/-! SUPPORT. The tables and the taps (spec/20_memory.md R43, R45, R48, R56; 00_scope.md R10): words compared by their bit pairs,
the shifted interleave entry, the indices a transaction reads, terms in any order, and the statements about them. -/

namespace Sys2Proof.Machine

/-- Two words of `n` bit pairs are equal when they agree at the even positions and at the odd positions. -/
theorem eq_of_bitPairs {w : Nat} {x y : BitVec w} (n : Nat) (width : w = 2 * n)
    (even : ∀ i < n, x.getLsbD (2 * i) = y.getLsbD (2 * i))
    (odd : ∀ i < n, x.getLsbD (2 * i + 1) = y.getLsbD (2 * i + 1)) : x = y := by
  apply BitVec.eq_of_getLsbD_eq
  intro p hp
  obtain ⟨i, rfl | rfl⟩ := Nat.even_or_odd' p
  · exact even i (by omega)
  · exact odd i (by omega)

/-! The interleave table (R43) -/

/-- R43 (c): the shift by one leaves nothing at the even positions. -/
theorem getLsbD_ilut_shiftLeft_even (v : Byte) (i : Nat) : (ilut v <<< 1).getLsbD (2 * i) = false := by
  rw [BitVec.getLsbD_shiftLeft]
  cases i with
  | zero => simp
  | succ i =>
    have below : 2 * (i + 1) - 1 = 2 * i + 1 := by omega
    rw [below, getLsbD_ilut_odd, Bool.and_false]

/-- The shift by one moves every bit of the index from its even position to the odd one above it. -/
theorem getLsbD_ilut_shiftLeft_odd (v : Byte) {i : Nat} (hi : i < 8) : (ilut v <<< 1).getLsbD (2 * i + 1) = v.getLsbD i := by
  have inEntry : 2 * i + 1 < 16 := by omega
  rw [BitVec.getLsbD_shiftLeft, Nat.add_sub_cancel, getLsbD_ilut_even v hi]
  simp [inEntry]

/-- The even-bit mask and the odd-bit mask of an entry, at a bit pair. -/
theorem getLsbD_entryMasks : ∀ i < 8, (0xAAAA#16).getLsbD (2 * i) = false ∧ (0x5555#16).getLsbD (2 * i) = true ∧
    (0x5555#16).getLsbD (2 * i + 1) = false := by decide

/-- R43 (a): no odd bit is set. -/
theorem ilut_and_oddBits (v : Byte) : ilut v &&& 0xAAAA#16 = 0#16 := by
  apply eq_of_bitPairs 8 rfl
  · intro i hi
    rw [BitVec.getLsbD_and, (getLsbD_entryMasks i hi).1, Bool.and_false, BitVec.getLsbD_zero]
  · intro i _
    rw [BitVec.getLsbD_and, getLsbD_ilut_odd, Bool.false_and, BitVec.getLsbD_zero]

/-- R43 (c): the shifted entry has no even bit. -/
theorem ilut_shiftLeft_and_evenBits (v : Byte) : (ilut v <<< 1) &&& 0x5555#16 = 0#16 := by
  apply eq_of_bitPairs 8 rfl
  · intro i _
    rw [BitVec.getLsbD_and, getLsbD_ilut_shiftLeft_even, Bool.false_and, BitVec.getLsbD_zero]
  · intro i hi
    obtain ⟨_, _, maskBit⟩ := getLsbD_entryMasks i hi
    rw [BitVec.getLsbD_and, maskBit, Bool.and_false, BitVec.getLsbD_zero]

/-- R43 (b): each of the eight bits adds at most its own power of four. -/
theorem toNat_ilut_le (v : Byte) : (ilut v).toNat ≤ 0x5555 := by
  calc (ilut v).toNat
      _ = ∑ i ∈ Finset.range 8, (v.getLsbD i).toNat * 4 ^ i := toNat_ilut v
      _ ≤ ∑ i ∈ Finset.range 8, 1 * 4 ^ i := Finset.sum_le_sum fun i _ => Nat.mul_le_mul_right _ (Bool.toNat_le _)
      _ = 0x5555 := by decide

/-- R43 (b): bit 15 is 0, so the shift by one doubles the entry. -/
theorem toNat_ilut_shiftLeft (v : Byte) : (ilut v <<< 1).toNat = (ilut v).toNat * 2 := by
  have notLost : (ilut v).toNat * 2 < 2 ^ 16 := by
    have bound := toNat_ilut_lt v
    omega
  rw [BitVec.toNat_shiftLeft, Nat.shiftLeft_eq, Nat.pow_one, Nat.mod_eq_of_lt notLost]

/-- R43 (d): the table commutes with OR. -/
theorem ilut_or (u v : Byte) : ilut u ||| ilut v = ilut (u ||| v) := by
  apply eq_of_bitPairs 8 rfl
  · intro i hi
    rw [BitVec.getLsbD_or, getLsbD_ilut_even u hi, getLsbD_ilut_even v hi, getLsbD_ilut_even _ hi, BitVec.getLsbD_or]
  · intro i _
    rw [BitVec.getLsbD_or, getLsbD_ilut_odd, getLsbD_ilut_odd, getLsbD_ilut_odd, Bool.or_false]

/-- R43 (e): every bit of the index can be read off the entry. -/
theorem ilut_injective {u v : Byte} (same : ilut u = ilut v) : u = v := by
  apply BitVec.eq_of_getLsbD_eq
  intro i hi
  rw [← getLsbD_ilut_even u hi, ← getLsbD_ilut_even v hi, same]

/-- R43 (f): eight positions of an entry, from an even one on, hold four bits of its index, so they are the same for two indices
that agree in those four bits. -/
theorem ilut_extractLsb'_congr {u v : Byte} {start start' : Nat} (startEven : start % 2 = 0) (startEven' : start' % 2 = 0)
    (inEntry : start + 8 ≤ 16) (inEntry' : start' + 8 ≤ 16)
    (sameNibble : ∀ j < 4, u.getLsbD (start / 2 + j) = v.getLsbD (start' / 2 + j)) :
    (ilut u).extractLsb' start 8 = (ilut v).extractLsb' start' 8 := by
  obtain ⟨n, rfl⟩ := Nat.dvd_of_mod_eq_zero startEven
  obtain ⟨n', rfl⟩ := Nat.dvd_of_mod_eq_zero startEven'
  rw [Nat.mul_div_cancel_left n (by decide), Nat.mul_div_cancel_left n' (by decide)] at sameNibble
  apply eq_of_bitPairs 4 rfl
  · intro j hj
    have inByte : 2 * j < 8 := by omega
    simp only [BitVec.getLsbD_extractLsb', inByte, decide_true, Bool.true_and, ← Nat.mul_add]
    rw [getLsbD_ilut_even u (by omega), getLsbD_ilut_even v (by omega), sameNibble j hj]
  · intro j _
    simp only [BitVec.getLsbD_extractLsb', ← Nat.add_assoc, ← Nat.mul_add, getLsbD_ilut_odd]

/-! The indices a transaction reads (R45, R48, R56) -/

/-- A byte under the even mask has no odd bit. -/
theorem and_evenMask_and_oddMask (y : Byte) : y &&& evenMask &&& oddMask = 0#8 := by
  rw [BitVec.and_assoc, show evenMask &&& oddMask = 0#8 from rfl, BitVec.and_zero]

/-- A byte under the odd mask has no even bit. -/
theorem and_oddMask_and_evenMask (y : Byte) : y &&& oddMask &&& evenMask = 0#8 := by
  rw [BitVec.and_assoc, show oddMask &&& evenMask = 0#8 from rfl, BitVec.and_zero]

/-- The two masks together cover the byte. -/
theorem and_evenMask_or_and_oddMask (y : Byte) : y &&& evenMask ||| y &&& oddMask = y := by
  rw [← BitVec.and_or_distrib_left, show evenMask ||| oddMask = BitVec.allOnes 8 from rfl, BitVec.and_allOnes]

theorem and_evenMask_eq_self {y : Byte} (evenOnly : y &&& oddMask = 0#8) : y &&& evenMask = y := by
  have whole := and_evenMask_or_and_oddMask y
  rwa [evenOnly, BitVec.or_zero] at whole

theorem and_oddMask_eq_self {y : Byte} (oddOnly : y &&& evenMask = 0#8) : y &&& oddMask = y := by
  have whole := and_evenMask_or_and_oddMask y
  rwa [oddOnly, BitVec.zero_or] at whole

/-- R56: the reads of a `DEINTERLEAVE` are those of `DLUT` at its byte lanes under the two masks. -/
theorem mem_tableReads_deinterleave (c : Code) (r : TableRead) :
    r ∈ tableReads (.deinterleave c) ↔
      ∃ k < 8, r = .dlut (lane c k &&& evenMask) ∨ r = .dlut (lane c k &&& oddMask) := by
  simp only [tableReads, deinterleaveTaps, List.mem_map, List.mem_append, List.mem_range]
  constructor
  · rintro ⟨_, ⟨k, hk, rfl⟩ | ⟨k, hk, rfl⟩, rfl⟩
    · exact ⟨k, hk, .inl rfl⟩
    · exact ⟨k, hk, .inr rfl⟩
  · rintro ⟨k, hk, rfl | rfl⟩
    · exact ⟨_, .inl ⟨k, hk, rfl⟩, rfl⟩
    · exact ⟨_, .inr ⟨k, hk, rfl⟩, rfl⟩

/-- R56: an `INTERLEAVE` reads `ILUT` alone. -/
theorem dlut_notMem_tableReads_interleave (a b : Value) (y : Byte) : TableRead.dlut y ∉ tableReads (.interleave a b) := by
  simp [tableReads]

/-- A code whose byte lane 0 is a given byte. -/
theorem lane_setWidth_zero (y : Byte) : lane (y.setWidth 64) 0 = y := by
  apply BitVec.eq_of_getLsbD_eq
  intro i hi
  have inCode : i < 64 := by omega
  rw [getLsbD_lane, BitVec.getLsbD_setWidth]
  simp [hi, inCode]

/-- R48: an index with even bits only is read by the code that holds it in lane 0. -/
theorem evenOnly_mem_tableReads {y : Byte} (evenOnly : y &&& oddMask = 0#8) :
    TableRead.dlut y ∈ tableReads (.deinterleave (y.setWidth 64)) :=
  (mem_tableReads_deinterleave _ _).mpr
    ⟨0, by decide, .inl (by rw [lane_setWidth_zero, and_evenMask_eq_self evenOnly])⟩

/-- R48: an index with odd bits only is read by the code that holds it in lane 0. -/
theorem oddOnly_mem_tableReads {y : Byte} (oddOnly : y &&& evenMask = 0#8) :
    TableRead.dlut y ∈ tableReads (.deinterleave (y.setWidth 64)) :=
  (mem_tableReads_deinterleave _ _).mpr
    ⟨0, by decide, .inr (by rw [lane_setWidth_zero, and_oddMask_eq_self oddOnly])⟩

/-- A table that meets the first clause of R45 agrees with the block's under the even mask. -/
theorem table_and_evenMask {table : Byte → Nibble}
    (rule : ∀ v : Byte, v &&& oddMask = 0#8 → ∀ j : Fin 4, (table v).getLsbD j = v.getLsbD (2 * j)) (y : Byte) :
    table (y &&& evenMask) = dlut (y &&& evenMask) := by
  apply BitVec.eq_of_getLsbD_eq
  intro j hj
  have evenOnly := and_evenMask_and_oddMask y
  exact (rule _ evenOnly ⟨j, hj⟩).trans (getLsbD_dlut_of_evenOnly evenOnly ⟨j, hj⟩).symm

/-- A table that meets the second clause of R45 agrees with the block's under the odd mask. -/
theorem table_and_oddMask {table : Byte → Nibble}
    (rule : ∀ v : Byte, v &&& evenMask = 0#8 → ∀ j : Fin 4, (table v).getLsbD j = v.getLsbD (2 * j + 1)) (y : Byte) :
    table (y &&& oddMask) = dlut (y &&& oddMask) := by
  apply BitVec.eq_of_getLsbD_eq
  intro j hj
  have oddOnly := and_oddMask_and_evenMask y
  exact (rule _ oddOnly ⟨j, hj⟩).trans (getLsbD_dlut_of_oddOnly oddOnly ⟨j, hj⟩).symm

/-- The reads of a `DEINTERLEAVE`, lane by lane instead of mask by mask. -/
theorem tableReads_deinterleave_perm (c : Code) :
    (tableReads (.deinterleave c)).Perm
      ((List.range 8).flatMap fun k => [.dlut (lane c k &&& evenMask), .dlut (lane c k &&& oddMask)]) := by
  have byMask : tableReads (.deinterleave c) =
      (List.range 8).map (fun k => .dlut (lane c k &&& evenMask)) ++
        (List.range 8).flatMap (fun k => [.dlut (lane c k &&& oddMask)]) := rfl
  rw [byMask]
  exact List.map_append_flatMap_perm _ _ _

/-! Terms in any order (R92, R112), and the shift amounts (R10) -/

/-- The OR of terms does not depend on their order. -/
theorem orAll_perm {w : Nat} {terms terms' : List (BitVec w)} (permuted : terms.Perm terms') : orAll terms = orAll terms' := by
  apply BitVec.eq_of_getLsbD_eq
  intro i _
  rw [getLsbD_orAll, getLsbD_orAll, permuted.any_eq]

theorem interleaveTaps_shifts (a b : Value) : (interleaveTaps a b).map Tap.shift = [0, 16, 32, 48, 1, 17, 33, 49] := rfl

theorem deinterleaveTaps_shifts (mask : Byte) (c : Code) :
    (deinterleaveTaps mask c).map Tap.shift = [0, 4, 8, 12, 16, 20, 24, 28] := rfl

/-- What holds of every shift amount in a list holds of every tap that lists them. -/
theorem forall_shift_of_shifts {taps : List Tap} {amounts : List Nat} (listed : taps.map Tap.shift = amounts) {P : Nat → Prop}
    (all : ∀ n ∈ amounts, P n) : ∀ t ∈ taps, P t.shift :=
  fun _ mem => all _ (listed ▸ List.mem_map_of_mem mem)

/-- A byte lane is the code shifted down and cut to eight bits. -/
theorem lane_eq_setWidth_shiftRight {w : Nat} (x : BitVec w) (k : Nat) : lane x k = (x >>> (8 * k)).setWidth 8 := by
  apply BitVec.eq_of_getLsbD_eq
  intro i hi
  rw [getLsbD_lane, BitVec.getLsbD_setWidth, BitVec.getLsbD_ushiftRight]

end Sys2Proof.Machine

namespace Sys2Proof.Proofs

open Sys2Proof.Machine

/-- Settles O13: what a `DEINTERLEAVE` reads, both directions, and that an `INTERLEAVE` reads none of it. -/
theorem datapathPresentsExactlyTheDefinedIndices : Obligations.DatapathPresentsExactlyTheDefinedIndices := by
  refine ⟨fun c r read => ?_, fun y defined => ?_, fun i y read => ?_⟩
  · obtain ⟨k, hk, masked⟩ := (mem_tableReads_deinterleave c r).mp read
    exact ⟨⟨k, hk⟩, masked⟩
  · rcases defined with evenOnly | oddOnly
    · exact ⟨_, evenOnly_mem_tableReads evenOnly⟩
    · exact ⟨_, oddOnly_mem_tableReads oddOnly⟩
  · cases i with
    | interleave a b => exact absurd read (dlut_notMem_tableReads_interleave a b y)
    | deinterleave c =>
      obtain ⟨k, _, even | odd⟩ := (mem_tableReads_deinterleave c _).mp read
      · obtain rfl := TableRead.dlut.inj even
        exact .inl (and_evenMask_and_oddMask _)
      · obtain rfl := TableRead.dlut.inj odd
        exact .inr (and_oddMask_and_evenMask _)

/-- Settles O15: under its masks the datapath reads such a table where it agrees with the block's, whose datapath computes the
law. -/
theorem anyTableMeetingTheGeneratingRuleDecodes : Obligations.AnyTableMeetingTheGeneratingRuleDecodes := by
  intro table evenRule oddRule c
  calc deinterleaveWith table c
      _ = deinterleaveDatapath c :=
        Prod.ext (deinterleaveHalf_congr (table_and_evenMask evenRule) c) (deinterleaveHalf_congr (table_and_oddMask oddRule) c)
      _ = lawDeinterleave c := deinterleaveDatapath_eq_lawDeinterleave c

/-- Settles O39: a permutation of the taps permutes the terms. -/
theorem orderOfTheTermsIsImmaterial : Obligations.OrderOfTheTermsIsImmaterial := by
  refine ⟨fun a b taps permuted => ?_, fun c taps permuted => ?_, fun c taps permuted => ?_⟩
  · exact orAll_perm (permuted.map interleaveTerm)
  · exact orAll_perm (permuted.map (deinterleaveTerm dlut))
  · exact orAll_perm (permuted.map (deinterleaveTerm dlut))

/-- Settles O10: the six properties, (f) by the nibble that each byte of the entry holds. -/
theorem interleaveTableHasItsSixProperties : Obligations.InterleaveTableHasItsSixProperties := by
  refine ⟨ilut_and_oddBits, fun v => ⟨toNat_ilut_le v, getLsbD_ilut_odd v 7, toNat_ilut_shiftLeft v⟩,
    ilut_shiftLeft_and_evenBits, ⟨ilut_or, by decide, by decide⟩, fun u v => ilut_injective, fun v => ⟨?_, ?_⟩⟩
  · have lowNibble : ∀ j < 4, (0x0F#8).getLsbD j = true := by decide
    apply ilut_extractLsb'_congr rfl rfl (by decide) (by decide)
    intro j hj
    simp [lowNibble j hj]
  · apply ilut_extractLsb'_congr rfl rfl (by decide) (by decide)
    intro j _
    simp

/-- Settles O14: the reads as the taps list them, those of a `DEINTERLEAVE` sorted by lane. -/
theorem eachOperationReadsItsOwnTable : Obligations.EachOperationReadsItsOwnTable :=
  ⟨fun _ _ => List.Perm.refl _, tableReads_deinterleave_perm, fun _ => ⟨rfl, rfl⟩⟩

/-- Settles O38: the amounts are listed, and the bounds hold of the lists. -/
theorem shiftAmountsAreConstants : Obligations.ShiftAmountsAreConstants := by
  refine ⟨interleaveTaps_shifts, deinterleaveTaps_shifts, fun c k => ⟨lane_eq_setWidth_shiftRight c k, by omega⟩,
    fun a b => ?_, fun mask c => ?_⟩
  · exact forall_shift_of_shifts (interleaveTaps_shifts a b) (P := fun n => n ≤ 49 ∧ n < 64) (by decide)
  · exact forall_shift_of_shifts (deinterleaveTaps_shifts mask c) (P := fun n => n ≤ 28 ∧ n < 32) (by decide)

end Sys2Proof.Proofs

/-! SUPPORT. `INTERLEAVE` (spec/40_interleave.md R93 to R97) and its algebra (spec/42_contracts.md R140): the terms of the datapath
apart from each other, the slots of the code, bitwise logic, and the statements about the operation alone. -/

namespace Sys2Proof.Machine

/-! The terms of the datapath (R95) -/

/-- R95 (a): the term of lane `k` of an operand spread from `base` on has bits at `16k + base`, two apart, alone. -/
theorem interleaveTerm_support {x : Value} {base k p : Nat}
    (isSet : (interleaveTerm ⟨lane x k, 16 * k + base⟩).getLsbD p = true) : ∃ i < 8, p = 16 * k + base + 2 * i := by
  rw [getLsbD_interleaveTerm_lane, spreadBit] at isSet
  simp only [Bool.and_eq_true, decide_eq_true_eq, beq_iff_eq] at isSet
  obtain ⟨inSlot, _, fromBase, parity, _⟩ := isSet
  exact ⟨(p - base) % 16 / 2, by omega, by omega⟩

/-- R95 (a): two terms of different lanes, or of different operands, share no position: the operands differ in parity. -/
theorem interleaveTerm_disjoint (x y : Value) {base base' k k' : Nat} (hbase : base < 2) (hbase' : base' < 2)
    (apart : base = base' → k ≠ k') :
    interleaveTerm ⟨lane x k, 16 * k + base⟩ &&& interleaveTerm ⟨lane y k', 16 * k' + base'⟩ = 0#64 := by
  apply BitVec.eq_of_getLsbD_eq
  intro p _
  rw [BitVec.getLsbD_and, BitVec.getLsbD_zero, Bool.and_eq_false_imp]
  intro isSet
  rw [Bool.eq_false_iff]
  intro isSet'
  obtain ⟨i, _, position⟩ := interleaveTerm_support isSet
  obtain ⟨i', _, position'⟩ := interleaveTerm_support isSet'
  omega

theorem interleaveLaneTaps_pairwise_disjoint (x : Value) {base : Nat} (hbase : base < 2) :
    ((interleaveLaneTaps x base).map interleaveTerm).Pairwise fun t u => t &&& u = 0#64 := by
  rw [interleaveLaneTaps, List.map_map, List.pairwise_map]
  exact List.pairwise_lt_range.imp fun below => interleaveTerm_disjoint x x hbase hbase fun _ => Nat.ne_of_lt below

/-- R95 (a): the eight terms are pairwise disjoint, those of one operand by their lanes and those of two by parity. -/
theorem interleaveTaps_pairwise_disjoint (a b : Value) :
    ((interleaveTaps a b).map interleaveTerm).Pairwise fun t u => t &&& u = 0#64 := by
  rw [interleaveTaps, List.map_append, List.pairwise_append]
  refine ⟨interleaveLaneTaps_pairwise_disjoint a (by decide), interleaveLaneTaps_pairwise_disjoint b (by decide), ?_⟩
  simp only [interleaveLaneTaps, List.map_map, List.mem_map]
  rintro _ ⟨k, _, rfl⟩ _ ⟨k', _, rfl⟩
  exact interleaveTerm_disjoint a b (by decide) (by decide) fun sameBase => absurd sameBase (by decide)

theorem toNat_or_of_and_eq_zero {w : Nat} {x y : BitVec w} (disjoint : x &&& y = 0#w) :
    (x ||| y).toNat = x.toNat + y.toNat := by
  rw [← BitVec.add_eq_or_of_and_eq_zero x y disjoint, BitVec.toNat_add_of_and_eq_zero disjoint]

/-- A word apart from every term is apart from their OR. -/
theorem and_orAll_eq_zero {w : Nat} {x : BitVec w} {terms : List (BitVec w)} (disjoint : ∀ t ∈ terms, x &&& t = 0#w) :
    x &&& orAll terms = 0#w := by
  apply BitVec.eq_of_getLsbD_eq
  intro i _
  rw [BitVec.getLsbD_and, getLsbD_orAll, BitVec.getLsbD_zero, Bool.and_eq_false_imp]
  intro inX
  rw [List.any_eq_false]
  intro t mem
  simpa [inX] using congrArg (·.getLsbD i) (disjoint t mem)

/-- The OR of pairwise disjoint terms is their sum; by induction on the terms. -/
theorem toNat_orAll_of_pairwise {w : Nat} {terms : List (BitVec w)} (disjoint : terms.Pairwise fun t u => t &&& u = 0#w) :
    (orAll terms).toNat = (terms.map BitVec.toNat).sum := by
  induction terms with
  | nil => exact BitVec.toNat_zero
  | cons t ts ih =>
    obtain ⟨first, rest⟩ := List.pairwise_cons.mp disjoint
    calc (t ||| orAll ts).toNat
        _ = t.toNat + (orAll ts).toNat := toNat_or_of_and_eq_zero (and_orAll_eq_zero first)
        _ = t.toNat + (ts.map BitVec.toNat).sum := by rw [ih rest]

/-- R95 (b): no shift up to 49 loses a bit of an entry, whose bit 15 is 0. -/
theorem toNat_interleaveTerm {t : Tap} (bounded : t.shift ≤ 49) :
    (interleaveTerm t).toNat = (ilut t.index).toNat * 2 ^ t.shift :=
  toNat_place (toNat_ilut_lt t.index) (by omega)

/-- R95 (c): the shift by one may be done in the entry's 16 bits, before widening. -/
theorem place_ilut_shiftLeft (v : Byte) {k : Nat} (hk : k < 4) :
    place 64 (ilut v) (16 * k + 1) = place 64 (ilut v <<< 1) (16 * k) := by
  apply BitVec.eq_of_toNat_eq
  rw [toNat_place (toNat_ilut_lt v) (by omega), toNat_place (ilut v <<< 1).isLt (by omega), toNat_ilut_shiftLeft,
    Nat.pow_succ']
  exact (Nat.mul_assoc _ _ _).symm

/-! The slots of the code (R96) -/

/-- Bit `j` of slot `k` is bit `16k + j` of the code. -/
theorem getLsbD_slot (c : Code) (k j : Nat) : (slot c k).getLsbD j = (decide (j < 16) && c.getLsbD (16 * k + j)) := by
  simp [slot]

/-- R96: the even positions of slot `k` are spread from lane `k` of `valueA`, the odd ones from lane `k` of `valueB`. -/
theorem slot_interleaveDatapath (a b : Value) {k : Nat} (hk : k < 4) :
    slot (interleaveDatapath a b) k = ilut (lane a k) ||| (ilut (lane b k) <<< 1) := by
  apply eq_of_bitPairs 8 rfl
  · intro i hi
    have inSlot : 2 * i < 16 := by omega
    have codeBit : 16 * k + 2 * i = 2 * (8 * k + i) := by omega
    rw [getLsbD_slot, codeBit, getLsbD_interleaveDatapath_even a b (by omega), BitVec.getLsbD_or, getLsbD_ilut_even _ hi,
      getLsbD_ilut_shiftLeft_even, getLsbD_lane]
    simp [inSlot, hi]
  · intro i hi
    have inSlot : 2 * i + 1 < 16 := by omega
    have codeBit : 16 * k + (2 * i + 1) = 2 * (8 * k + i) + 1 := by omega
    rw [getLsbD_slot, codeBit, getLsbD_interleaveDatapath_odd a b (by omega), BitVec.getLsbD_or, getLsbD_ilut_odd,
      getLsbD_ilut_shiftLeft_odd _ hi, getLsbD_lane]
    simp [inSlot, hi]

/-- A code is its four slots in order. -/
theorem code_eq_append_slots (c : Code) : c = (slot c 3 ++ slot c 2 ++ slot c 1 ++ slot c 0 : BitVec (16 + 16 + 16 + 16)) := by
  apply BitVec.eq_of_getLsbD_eq
  intro i hi
  simp only [BitVec.getLsbD_append, getLsbD_slot]
  by_cases slot0 : i < 16
  · simp [slot0]
  by_cases slot1 : i - 16 < 16
  · simp [slot0, slot1, show 16 + (i - 16) = i by omega]
  by_cases slot2 : i - 16 - 16 < 16
  · simp [slot0, slot1, slot2, show 32 + (i - 16 - 16) = i by omega]
  · have slot3 : i - 16 - 16 - 16 < 16 := by omega
    simp [slot0, slot1, slot2, slot3, show 48 + (i - 16 - 16 - 16) = i by omega]

/-! Bitwise logic (R140) -/

/-- R140: `INTERLEAVE` only moves bits, so it commutes with every operation that works bit by bit. -/
theorem interleaveDatapath_bitwise {f : Bool → Bool → Bool} {onValues : Value → Value → Value} {onCodes : Code → Code → Code}
    (valueBits : ∀ x y i, (onValues x y).getLsbD i = f (x.getLsbD i) (y.getLsbD i))
    (codeBits : ∀ x y i, (onCodes x y).getLsbD i = f (x.getLsbD i) (y.getLsbD i)) (a a' b b' : Value) :
    interleaveDatapath (onValues a a') (onValues b b') = onCodes (interleaveDatapath a b) (interleaveDatapath a' b') := by
  apply interleaveDatapath_eq_of_bitPairs
  · intro i hi
    rw [codeBits, getLsbD_interleaveDatapath_even _ _ hi, getLsbD_interleaveDatapath_even _ _ hi, valueBits]
  · intro i hi
    rw [codeBits, getLsbD_interleaveDatapath_odd _ _ hi, getLsbD_interleaveDatapath_odd _ _ hi, valueBits]

theorem interleaveDatapath_and (a a' b b' : Value) :
    interleaveDatapath (a &&& a') (b &&& b') = interleaveDatapath a b &&& interleaveDatapath a' b' :=
  interleaveDatapath_bitwise (fun _ _ _ => BitVec.getLsbD_and) (fun _ _ _ => BitVec.getLsbD_and) a a' b b'

theorem interleaveDatapath_or (a a' b b' : Value) :
    interleaveDatapath (a ||| a') (b ||| b') = interleaveDatapath a b ||| interleaveDatapath a' b' :=
  interleaveDatapath_bitwise (fun _ _ _ => BitVec.getLsbD_or) (fun _ _ _ => BitVec.getLsbD_or) a a' b b'

theorem interleaveDatapath_xor (a a' b b' : Value) :
    interleaveDatapath (a ^^^ a') (b ^^^ b') = interleaveDatapath a b ^^^ interleaveDatapath a' b' :=
  interleaveDatapath_bitwise (fun _ _ _ => BitVec.getLsbD_xor) (fun _ _ _ => BitVec.getLsbD_xor) a a' b b'

/-- R140: the operands' parts of a code are put together by OR. -/
theorem interleaveDatapath_eq_or_parts (a b : Value) :
    interleaveDatapath a b = interleaveDatapath a 0#32 ||| interleaveDatapath 0#32 b := by
  rw [← interleaveDatapath_or, BitVec.or_zero, BitVec.zero_or]

/-- R140: `valueB` goes where `valueA` would go, one position higher. -/
theorem interleaveDatapath_zero_left (b : Value) : interleaveDatapath 0#32 b = interleaveDatapath b 0#32 <<< 1 := by
  apply interleaveDatapath_eq_of_bitPairs
  · intro i hi
    rw [BitVec.getLsbD_shiftLeft, BitVec.getLsbD_zero]
    cases i with
    | zero => simp
    | succ i =>
      have below : 2 * (i + 1) - 1 = 2 * i + 1 := by omega
      rw [below, getLsbD_interleaveDatapath_odd _ _ (by omega), BitVec.getLsbD_zero, Bool.and_false]
  · intro i hi
    have inCode : 2 * i + 1 < 64 := by omega
    rw [BitVec.getLsbD_shiftLeft, Nat.add_sub_cancel, getLsbD_interleaveDatapath_even _ _ hi]
    simp [inCode]

/-- R97: on equal operands the two parts of the code are disjoint and one is twice the other. -/
theorem interleaveDatapath_self (v : Value) : interleaveDatapath v v = 3#64 * interleaveDatapath v 0#32 := by
  have disjoint : interleaveDatapath v 0#32 &&& interleaveDatapath 0#32 v = 0#64 := by
    rw [← interleaveDatapath_and, BitVec.and_zero, BitVec.zero_and, interleaveDatapath_zero_zero]
  calc interleaveDatapath v v
      _ = interleaveDatapath v 0#32 + interleaveDatapath 0#32 v := by
        rw [interleaveDatapath_eq_or_parts, BitVec.add_eq_or_of_and_eq_zero _ _ disjoint]
      _ = 3#64 * interleaveDatapath v 0#32 := by
        rw [interleaveDatapath_zero_left]
        bv_omega

/-! The corner cases (R97) -/

/-- R97: all ones in `valueA` alone fill the even positions. -/
theorem interleaveDatapath_allOnes_zero : interleaveDatapath 0xFFFFFFFF#32 0#32 = 0x5555555555555555#64 := by
  rw [← interleaveDatapath_and_evenMask _ (BitVec.allOnes 32)]
  exact congrArg (· &&& 0x5555555555555555#64) interleaveDatapath_allOnes_allOnes

/-- R97: all ones in `valueB` alone fill the odd positions. -/
theorem interleaveDatapath_zero_allOnes : interleaveDatapath 0#32 0xFFFFFFFF#32 = 0xAAAAAAAAAAAAAAAA#64 := by
  rw [← interleaveDatapath_and_oddMask (BitVec.allOnes 32)]
  exact congrArg (· &&& 0xAAAAAAAAAAAAAAAA#64) interleaveDatapath_allOnes_allOnes

end Sys2Proof.Machine

namespace Sys2Proof.Proofs

open Sys2Proof.Machine

/-- Settles O18: both place the same bits. -/
theorem interleaveDatapathComputesTheLaw : Obligations.InterleaveDatapathComputesTheLaw :=
  interleaveDatapath_eq_lawInterleave

/-- Settles O20: where a term has bits, what follows for the OR, and what the shifts keep. -/
theorem interleaveTermsNeitherOverlapNorLoseABit : Obligations.InterleaveTermsNeitherOverlapNorLoseABit := by
  intro a b
  refine ⟨fun k p isSet => ?_, fun k p isSet => ?_, interleaveTaps_pairwise_disjoint a b, ?_, ?_, ?_, fun v k => ?_⟩
  · obtain ⟨i, hi, position⟩ := interleaveTerm_support (base := 0) isSet
    exact ⟨⟨i, hi⟩, position⟩
  · obtain ⟨i, hi, position⟩ := interleaveTerm_support (base := 1) isSet
    exact ⟨⟨i, hi⟩, position⟩
  · rw [interleaveDatapath, toNat_orAll_of_pairwise (interleaveTaps_pairwise_disjoint a b), List.map_map]
    rfl
  · have topBit : spreadBit b 1 63 = b.getLsbD 31 := spreadBit_even b 1 31
    rw [getLsbD_interleaveTerm_lane b 1 3 63, topBit]
    rfl
  · intro t mem
    exact toNat_interleaveTerm (forall_shift_of_shifts (interleaveTaps_shifts a b) (P := (· ≤ 49)) (by decide) t mem)
  · exact ⟨getLsbD_ilut_odd v 7, place_ilut_shiftLeft v k.isLt⟩

/-- Settles O21: each slot, and the code as its slots. -/
theorem interleaveSlotsAreIndependentLanes : Obligations.InterleaveSlotsAreIndependentLanes :=
  fun a b => ⟨fun k => slot_interleaveDatapath a b k.isLt, code_eq_append_slots _⟩

/-- Settles O22: the fixed rows by single bits and masks, the rows for every operand by the bit pairs of the code. -/
theorem interleaveCornerCases : Obligations.InterleaveCornerCases := by
  have even (a b : Value) (i : Fin 32) := getLsbD_interleaveDatapath_even a b i.isLt
  have odd (a b : Value) (i : Fin 32) := getLsbD_interleaveDatapath_odd a b i.isLt
  have lowA : interleaveDatapath 1#32 0#32 = 1#64 := interleaveDatapath_singleBit_zero (i := 0) (by decide)
  have lowB : interleaveDatapath 0#32 1#32 = 2#64 := interleaveDatapath_zero_singleBit (i := 0) (by decide)
  refine ⟨interleaveDatapath_zero_zero, interleaveDatapath_allOnes_allOnes, lowA, lowB, interleaveDatapath_allOnes_zero,
    interleaveDatapath_zero_allOnes, ?_, ?_, fun v i => ?_, interleaveDatapath_self, fun a b i => ⟨?_, ?_⟩, ?_, ?_⟩
  · exact interleaveDatapath_singleBit_zero (i := 31) (by decide)
  · exact interleaveDatapath_zero_singleBit (i := 31) (by decide)
  · rw [even, odd]
  · rw [even, odd]
  · rw [even, odd]
  · refine ⟨1#32, 0#32, ?_⟩
    rw [lowA, lowB]
    decide
  · exact interleaveDatapath_singleBit_zero (i := 8) (by decide)

end Sys2Proof.Proofs

/-! SUPPORT. `DEINTERLEAVE` (spec/41_deinterleave.md R111 to R117) and the contracts of both operations (spec/42_contracts.md R131,
R132, R138 to R141): the reverse round trip, the nibbles, lanes and halves, the number of set bits, and the statements. -/

namespace Sys2Proof.Machine

/-! The reverse round trip (R111, R131) -/

/-- R131: each bit of the code is put back where it was read. -/
theorem interleaveDatapath_deinterleaveDatapath (c : Code) :
    interleaveDatapath (deinterleaveDatapath c).1 (deinterleaveDatapath c).2 = c :=
  interleaveDatapath_eq_of_bitPairs (fun _ hi => (getLsbD_deinterleaveDatapath_fst c hi).symm)
    (fun _ hi => (getLsbD_deinterleaveDatapath_snd c hi).symm)

/-- R111: the pair of a code is the one pair that gives it. -/
theorem interleaveDatapath_eq_iff (a b : Value) (c : Code) :
    interleaveDatapath a b = c ↔ deinterleaveDatapath c = (a, b) := by
  constructor
  · rintro rfl
    exact deinterleaveDatapath_interleaveDatapath a b
  · intro decoded
    have restored := interleaveDatapath_deinterleaveDatapath c
    rwa [decoded] at restored

/-- R131 for `Exec`, whose two commands are the two datapaths. -/
theorem transact_transact_deinterleave (c : Code) : transact (packCmd .interleave (transact (packCmd .deinterleave c))) = c := by
  rw [transact_packCmd_deinterleave, transact_packCmd_interleave, lowHalf_packPair, highHalf_packPair,
    interleaveDatapath_deinterleaveDatapath]

/-- R132: where bit `i` of the pair `{b, a}` stands in the code. -/
theorem getLsbD_packPair_eq_code {a b : Value} {c : Code} (code : interleaveDatapath a b = c) {i : Nat} (hi : i < 64) :
    (packPair a b).getLsbD i = c.getLsbD (if i < 32 then 2 * i else 2 * (i - 32) + 1) := by
  rw [getLsbD_packPair, ← code]
  split
  next ofA => rw [getLsbD_interleaveDatapath_even a b ofA]
  next ofB => rw [getLsbD_interleaveDatapath_odd a b (by omega)]

/-! Nibbles, slots and halves (R116, R141) -/

/-- Bit `j` of nibble `m` is bit `4m + j` of the value. -/
theorem getLsbD_nibble (x : Value) (m j : Nat) : (nibble x m).getLsbD j = (decide (j < 4) && x.getLsbD (4 * m + j)) := by
  simp [nibble]

/-- R116: nibble `k` of a result is the entry read at byte lane `k`. -/
theorem nibble_deinterleaveHalf (table : Byte → Nibble) (mask : Byte) (c : Code) {k : Nat} (hk : k < 8) :
    nibble (deinterleaveHalf table mask c) k = table (lane c k &&& mask) := by
  apply BitVec.eq_of_getLsbD_eq
  intro j hj
  have ofLane : (4 * k + j) / 4 = k := by omega
  have ofEntry : (4 * k + j) % 4 = j := by omega
  rw [getLsbD_nibble, getLsbD_deinterleaveHalf table mask c (by omega), ofLane, ofEntry, decide_eq_true hj, Bool.true_and]

/-- Words with the same field agree on each of its bits. -/
theorem getLsbD_eq_of_extractLsb'_eq {w start len : Nat} {x y : BitVec w}
    (same : x.extractLsb' start len = y.extractLsb' start len) {i : Nat} (hi : i < len) :
    x.getLsbD (start + i) = y.getLsbD (start + i) := by
  simpa [hi] using congrArg (·.getLsbD i) same

/-- R141: 32 bits of a code, from bit `2 * start` on, depend on 16 bits of each operand, from bit `start` on. -/
theorem interleaveDatapath_extractLsb'_congr {a a' b b' : Value} {start : Nat} (inOperand : start + 16 ≤ 32)
    (sameA : a.extractLsb' start 16 = a'.extractLsb' start 16) (sameB : b.extractLsb' start 16 = b'.extractLsb' start 16) :
    (interleaveDatapath a b).extractLsb' (2 * start) 32 = (interleaveDatapath a' b').extractLsb' (2 * start) 32 := by
  apply eq_of_bitPairs 16 rfl
  · intro i hi
    have bound : start + i < 32 := by omega
    simp only [BitVec.getLsbD_extractLsb', ← Nat.mul_add, getLsbD_interleaveDatapath_even _ _ bound,
      getLsbD_eq_of_extractLsb'_eq sameA hi]
  · intro i hi
    have bound : start + i < 32 := by omega
    simp only [BitVec.getLsbD_extractLsb', ← Nat.add_assoc, ← Nat.mul_add, getLsbD_interleaveDatapath_odd _ _ bound,
      getLsbD_eq_of_extractLsb'_eq sameB hi]

/-! Bitwise logic and the number of set bits (R140) -/

/-- R140: `DEINTERLEAVE` only moves bits, so it commutes with every operation that works bit by bit; by the one of
`INTERLEAVE`, applied to the two decoded pairs. -/
theorem deinterleaveDatapath_bitwise {onValues : Value → Value → Value} {onCodes : Code → Code → Code}
    (commutes : ∀ a a' b b', interleaveDatapath (onValues a a') (onValues b b') =
      onCodes (interleaveDatapath a b) (interleaveDatapath a' b')) (c c' : Code) :
    deinterleaveDatapath (onCodes c c') =
      (onValues (deinterleaveDatapath c).1 (deinterleaveDatapath c').1,
        onValues (deinterleaveDatapath c).2 (deinterleaveDatapath c').2) := by
  rw [← interleaveDatapath_eq_iff, commutes, interleaveDatapath_deinterleaveDatapath, interleaveDatapath_deinterleaveDatapath]

/-- A word's count of set bits, at most its width, fits in its width. -/
theorem toNat_cpop {w : Nat} (x : BitVec w) : x.cpop.toNat = x.cpopNatRec w 0 := by
  have fits : x.cpopNatRec w 0 < 2 ^ w := (BitVec.cpopNatRec_zero_le x w).trans_lt Nat.lt_two_pow_self
  rw [BitVec.cpop, BitVec.toNat_ofNat, Nat.mod_eq_of_lt fits]

/-- The set bits below position `n + 1` are those below `n` and the one at `n`. -/
theorem cpopNatRec_succ_zero {w : Nat} (x : BitVec w) (n : Nat) :
    x.cpopNatRec (n + 1) 0 = x.cpopNatRec n 0 + (x.getLsbD n).toNat := by
  rw [BitVec.cpopNatRec_succ, BitVec.cpopNatRec_eq, Nat.zero_add]

/-- R140, counted over the low `n` bit pairs of the code; by induction on `n`. -/
theorem cpopNatRec_interleaveDatapath (a b : Value) {n : Nat} (hn : n ≤ 32) :
    (interleaveDatapath a b).cpopNatRec (2 * n) 0 = a.cpopNatRec n 0 + b.cpopNatRec n 0 := by
  induction n with
  | zero => simp
  | succ n ih =>
    rw [Nat.mul_succ, cpopNatRec_succ_zero, cpopNatRec_succ_zero, cpopNatRec_succ_zero, cpopNatRec_succ_zero,
      ih (by omega), getLsbD_interleaveDatapath_even a b (by omega), getLsbD_interleaveDatapath_odd a b (by omega)]
    omega

/-- R140: no set bit is lost or made. -/
theorem toNat_cpop_interleaveDatapath (a b : Value) : (interleaveDatapath a b).cpop.toNat = a.cpop.toNat + b.cpop.toNat := by
  rw [toNat_cpop, toNat_cpop, toNat_cpop]
  exact cpopNatRec_interleaveDatapath a b (Nat.le_refl 32)

/-! The example vector (R98, R138) -/

theorem interleaveDatapath_exampleVector :
    interleaveDatapath 0x12345678#32 0x9ABCDEF0#32 = 0x838C8FB0B3BCBF40#64 := by decide

end Sys2Proof.Machine

namespace Sys2Proof.Proofs

open Sys2Proof.Machine

/-- Settles O25: the decoded bits, and the pair they make. -/
theorem deinterleaveFollowsTheLaw : Obligations.DeinterleaveFollowsTheLaw := by
  refine fun c => ⟨fun i => ⟨?_, ?_⟩, fun a b => interleaveDatapath_eq_iff a b c⟩
  · exact getLsbD_deinterleaveDatapath_fst c i.isLt
  · exact getLsbD_deinterleaveDatapath_snd c i.isLt

/-- Settles O26: both read the same bits. -/
theorem deinterleaveDatapathComputesTheLaw : Obligations.DeinterleaveDatapathComputesTheLaw :=
  deinterleaveDatapath_eq_lawDeinterleave

/-- Settles O28: one fact for both masks. -/
theorem deinterleaveNibblesAreIndependentLanes : Obligations.DeinterleaveNibblesAreIndependentLanes := by
  refine fun c k => ⟨?_, ?_⟩
  · exact nibble_deinterleaveHalf dlut evenMask c k.isLt
  · exact nibble_deinterleaveHalf dlut oddMask c k.isLt

/-- Settles O31: of the datapaths, then of `Exec`. -/
theorem reverseRoundTripReturnsTheCode : Obligations.ReverseRoundTripReturnsTheCode :=
  ⟨interleaveDatapath_deinterleaveDatapath, transact_transact_deinterleave⟩

/-- Settles O33: the two round trips make the bijection, and the bits of the pair stand where the code has them. -/
theorem interleaveIsABitPermutation : Obligations.InterleaveIsABitPermutation := by
  have left : Function.LeftInverse deinterleaveDatapath (fun p : Value × Value => interleaveDatapath p.1 p.2) :=
    fun p => deinterleaveDatapath_interleaveDatapath p.1 p.2
  have right : Function.RightInverse deinterleaveDatapath (fun p : Value × Value => interleaveDatapath p.1 p.2) :=
    interleaveDatapath_deinterleaveDatapath
  refine ⟨⟨left.injective, right.surjective⟩, left, right, fun a b i => ?_, fun c i => ?_⟩
  · exact getLsbD_packPair_eq_code rfl i.isLt
  · exact getLsbD_packPair_eq_code (interleaveDatapath_deinterleaveDatapath c) i.isLt

/-- Settles O36: bitwise logic on codes, the parts of a code, and the count of set bits. -/
theorem operationsCommuteWithBitwiseLogic : Obligations.OperationsCommuteWithBitwiseLogic := by
  refine ⟨fun a a' b b' => ?_, fun c c' => ?_, interleaveDatapath_eq_or_parts, fun b => ?_, toNat_cpop_interleaveDatapath⟩
  · exact ⟨interleaveDatapath_and a a' b b', interleaveDatapath_or a a' b b', interleaveDatapath_xor a a' b b'⟩
  · exact ⟨deinterleaveDatapath_bitwise interleaveDatapath_and c c', deinterleaveDatapath_bitwise interleaveDatapath_or c c',
      deinterleaveDatapath_bitwise interleaveDatapath_xor c c'⟩
  · have topBit : (interleaveDatapath b 0#32).getLsbD 63 = (0#32).getLsbD 31 :=
      getLsbD_interleaveDatapath_odd b 0#32 (i := 31) (by decide)
    exact ⟨interleaveDatapath_zero_left b, topBit.trans BitVec.getLsbD_zero⟩

/-- Settles O37: a slot and a nibble are written with their own lanes, a half of the code with the half of each operand. -/
theorem lanesDoNotInteract : Obligations.LanesDoNotInteract := by
  refine ⟨fun a a' b b' k sameA sameB => ?_, fun c c' m same => ⟨?_, ?_⟩, fun a a' b b' => ?_, fun a a' b b' => ?_⟩
  · rw [slot_interleaveDatapath a b k.isLt, slot_interleaveDatapath a' b' k.isLt, sameA, sameB]
  · rw [(deinterleaveNibblesAreIndependentLanes c m).1, (deinterleaveNibblesAreIndependentLanes c' m).1, same]
  · rw [(deinterleaveNibblesAreIndependentLanes c m).2, (deinterleaveNibblesAreIndependentLanes c' m).2, same]
  · exact interleaveDatapath_extractLsb'_congr (start := 0) (by decide)
  · exact interleaveDatapath_extractLsb'_congr (start := 16) (by decide)

/-- Settles O29: each row is the round trip of the code of its pair. -/
theorem deinterleaveCornerCases : Obligations.DeinterleaveCornerCases := by
  obtain ⟨zeroes, ones, lowA, lowB, onesA, onesB, highA, highB, _⟩ := interleaveCornerCases
  have decoded {a b : Value} {c : Code} (code : interleaveDatapath a b = c) : deinterleaveDatapath c = (a, b) :=
    (interleaveDatapath_eq_iff a b c).mp code
  have lowLane : interleaveDatapath 0xF#32 0xF#32 = 0x00000000000000FF#64 := by decide
  exact ⟨decoded zeroes, decoded ones, decoded lowA, decoded lowB, decoded onesA, decoded onesB, decoded highB, decoded highA,
    decoded lowLane, decoded interleaveDatapath_exampleVector⟩

/-- Settles O35: the code computed, the way back by the round trip. -/
theorem exampleVectorHasItsValue : Obligations.ExampleVectorHasItsValue :=
  ⟨interleaveDatapath_exampleVector, (interleaveDatapath_eq_iff _ _ _).mp interleaveDatapath_exampleVector⟩

end Sys2Proof.Proofs
